-- ==== Sys2Proof/Word.lean ====
section
/-! DEFINITION. The word types of the decoder: bytes, coded words, pixels, and a value per colour channel. -/

namespace Sys2Proof

/-- One byte of SRC, and one byte lane of a pixel (spec 20_memory R50, R56). -/
abbrev Byte := BitVec 8

/-- A raw or normalized coded word, `WORD_BITS` = 64 (spec 00_scope R14, 30_encoding R80). -/
abbrev CodedWord := BitVec 64

/-- A raster pixel, `PIXEL_BITS` = 32 (spec 00_scope R14, 20_memory R51). -/
abbrev Pixel := BitVec 32

/-- One value for each of the channels R, G, B: what the spec writes `x[c]` for `c` in {R, G, B}. -/
structure Rgb (α : Type) where
  r : α
  g : α
  b : α
deriving DecidableEq, Repr

/-- The same function on each channel. -/
def Rgb.map {α β : Type} (f : α → β) (x : Rgb α) : Rgb β := ⟨f x.r, f x.g, f x.b⟩

/-- Two channel triples combined channel by channel. -/
def Rgb.zip {α β γ : Type} (f : α → β → γ) (x : Rgb α) (y : Rgb β) : Rgb γ :=
  ⟨f x.r y.r, f x.g y.g, f x.b y.b⟩

end Sys2Proof
end

