-- ==== Sys2Proof/Config.lean ====
section
/-! DEFINITION. What an implementation fixes (spec 00_scope R14) and the free values of the model.
The values the spec gives the parameters are in Machine/Params.lean. -/

namespace Sys2Proof

/-- `PIXEL_ORDER`: which tile position an ordinal is (spec 42_color_pixels R146, decision D10, warning W1). -/
inductive PixelOrder where
  | rowMajor
  | colMajor
deriving DecidableEq, Repr

/-- `INDEX_MSB_HALF`: which 16-bit half of `N[63:32]` holds the high bit of a pixel index
(spec 00_scope R14, 30_encoding R85, decision D12). -/
inductive IndexMsbHalf where
  | upper
  | lower
deriving DecidableEq, Repr

/-- `DXT1_POLICY`: what `DECODE` does for `FORMAT` = `Dxt1` (spec 45_sequencer R186, 93 U2, decision D18). -/
inductive Dxt1Policy where
  | literal
  | refuse
deriving DecidableEq, Repr

/-- `WORD_LOAD_ORDER` (spec 20_memory R54, decision D3). The spec gives the parameter one value: with any other load the
two byte-order rules would not be the ones it states. -/
inductive WordLoadOrder where
  | littleEndian
deriving DecidableEq, Repr

/-- `RG_OVERFLOW_POLICY` (spec 41_color_endpoints R130, 93 U1, decision D17). The one value carried is the spec's own; the
refusal it allows a model instead would stop a word that can be executed. -/
inductive RgOverflowPolicy where
  | anyValue
deriving DecidableEq, Repr

/-- `LAYOUT_COLOR_LO`: the lowest bit of each field of `N[31:2]` (spec 30_encoding R83, R84, decision D11). -/
structure ColorLayout where
  /-- `CR0 CG0 CB0` and `CR1 CG1 CB1` of the individual layout, 4 bits each. -/
  indiv0 : Rgb Nat
  indiv1 : Rgb Nat
  /-- `CR0 CG0 CB0` (5 bits) and `DR DG DB` (3 bits) of the differential layout. -/
  diff0 : Rgb Nat
  delta : Rgb Nat
  /-- The table codes `T0`, `T1`, 3 bits each, in both layouts. -/
  t0 : Nat
  t1 : Nat
deriving DecidableEq, Repr

/-- `LAYOUT_PLANAR`: the lowest bit of each piece of the nine planar fields (spec 30_encoding R86, decision D13). The
thirteenth piece, `RH[0]`, is `N[0]` in every layout (R82). -/
structure PlanarLayout where
  ro : Nat
  /-- `GO[6]`, then `GO[5:0]`. -/
  go6 : Nat
  go : Nat
  /-- `BO[5]`, `BO[4:3]`, `BO[2:0]`. -/
  bo5 : Nat
  bo43 : Nat
  bo : Nat
  /-- `RH[5:1]`. -/
  rh : Nat
  gh : Nat
  bh : Nat
  rv : Nat
  gv : Nat
  bv : Nat
deriving DecidableEq, Repr

/-- `LAYOUT_ALPHA_HDR`: the lowest bit of each header field of `A[63:48]` (spec 30_encoding R87, decision D14). -/
structure AlphaLayout where
  base : Nat
  mul : Nat
  tbl : Nat
deriving DecidableEq, Repr

/-- `FORMAT_CODE`: the codes of `FORMAT` (spec 10_state R22, decision D7). -/
structure FormatCode where
  etc1 : BitVec 32
  dxt1 : BitVec 32
  etc2Rgb : BitVec 32
  etc2Rgba : BitVec 32
deriving DecidableEq, Repr

/-- `CSR_MAP`: the bus address of each register (spec 00_scope R14, 93 U9, decision D4). -/
structure CsrMap where
  format : Nat
  width : Nat
  height : Nat
  srcBase : Nat
  srcLen : Nat
  dstBase : Nat
  status : Nat
  ctrl : Nat
deriving DecidableEq, Repr

/-! The parameters that the source itself fixes have one value, and the types of the model are built on it. -/

/-- `WORD_BITS` (spec 00_scope R14). The one value is the width of `CodedWord`. -/
inductive WordBits where
  | bits64
deriving DecidableEq, Repr

def WordBits.bits : WordBits → Nat
  | .bits64 => 64

/-- The stored bytes of a coded word (spec 30_encoding R80). -/
def WordBits.bytes : WordBits → Nat
  | .bits64 => 8

/-- `TILE_W`, `TILE_H` (spec 00_scope R14). -/
inductive TileSide where
  | four
deriving DecidableEq, Repr

def TileSide.toNat : TileSide → Nat
  | .four => 4

/-- `PIXEL_BITS` (spec 00_scope R14). The one value is the width of `Pixel`. -/
inductive PixelBits where
  | bits32
deriving DecidableEq, Repr

def PixelBits.bits : PixelBits → Nat
  | .bits32 => 32

/-- `PIXEL_LAYOUT` (spec 00_scope R14, 20_memory R56: "Byte order cannot be switched"): R, G, B, A from low to high. -/
inductive PixelLayout where
  | rgba
deriving DecidableEq, Repr

/-! The lowest bit of each byte lane. -/

def PixelLayout.r : PixelLayout → Nat
  | .rgba => 0
def PixelLayout.g : PixelLayout → Nat
  | .rgba => 8
def PixelLayout.b : PixelLayout → Nat
  | .rgba => 16
def PixelLayout.a : PixelLayout → Nat
  | .rgba => 24

/-- The implementation parameters of spec 00_scope R14, every one of them. A machine carries one value of this type in its
state and no step changes it (DESIGN CHOICE, log 1). -/
structure Config where
  wordBits : WordBits
  tileW : TileSide
  tileH : TileSide
  pixelBits : PixelBits
  pixelLayout : PixelLayout
  wordLoadOrder : WordLoadOrder
  pixelOrder : PixelOrder
  layoutColorLo : ColorLayout
  indexMsbHalf : IndexMsbHalf
  layoutPlanar : PlanarLayout
  layoutAlphaHdr : AlphaLayout
  /-- `ROM_C`, eight rows of four signed entries (spec 10_state R40, R42). -/
  colorModTable : Vector (Vector Int 4) 8
  /-- `ROM_A`, sixteen rows of eight signed entries (spec 10_state R41, R42). -/
  alphaModTable : Vector (Vector Int 8) 16
  rgOverflowPolicy : RgOverflowPolicy
  dxt1Policy : Dxt1Policy
  /-- `DIM_BITS`, the width of `WIDTH` and `HEIGHT`, at most 32 (decision D5). -/
  dimBits : Nat
  /-- `ADDR_BITS`, open in the spec (decision D6). -/
  addrBits : Nat
  csrMap : CsrMap
  formatCode : FormatCode
deriving DecidableEq, Repr

/-- The two memory spaces a bus access can name (spec 20_memory R50, R51). -/
inductive Space where
  | src
  | dst
deriving DecidableEq, Repr

/-- FREE VALUE (log 6). The output bytes that spec 41_color_endpoints R130 (c) leaves at any value, one draw per number. -/
opaque Config.freeByte : Nat → Byte

/-- FREE VALUE (log 14). A coded word fetched after premise `P-excl` was broken (spec 93 U4). -/
opaque Config.freeWord : Nat → CodedWord

/-- FREE VALUE (log 14, 15). A raster pixel that spec 93 U4 or U6 leaves at any value. -/
opaque Config.freePixel : Nat → Pixel

/-- FREE VALUE (log 13). What a configuration register holds after the host wrote it during a command (spec 93 U7), before
the register's width is taken. -/
opaque Config.freeRegister : Nat → Nat

/-- FREE VALUE (log 26). The mip level count written for an image without mipmaps, by its size (spec 48_host_container R206,
91 N14). -/
opaque Config.plainMipCount : BitVec 32 → BitVec 32 → BitVec 32

/-- FREE VALUE (log 8). What a byte of SRC or DST holds before anything in the model has written it
(spec 10_state R45: "whatever the host placed there"). -/
opaque Config.unlistedByte : Space → Nat → Byte

end Sys2Proof
end

