-- ==== Sys2Proof/Machine/Params.lean ====
section
/-! DEFINITION. The values the spec gives the parameters of 00_scope R14: the two tables, the layouts, the format codes and
the machine's configuration. -/

namespace Sys2Proof.Machine

/-- `ROM_C`, the colour intensity-modifier table (spec 10_state R40; values as the spec gives them, UNVERIFIED, decision D15, log 16). -/
def romC : Vector (Vector Int 4) 8 :=
  #v[#v[2, 8, -2, -8],
    #v[5, 17, -5, -17],
    #v[9, 29, -9, -29],
    #v[13, 42, -13, -42],
    #v[18, 60, -18, -60],
    #v[24, 80, -24, -80],
    #v[33, 106, -33, -106],
    #v[47, 183, -47, -183]]

/-- `ROM_A`, the alpha modifier table (spec 10_state R41; values as the spec gives them, UNVERIFIED, decision D16, log 16). -/
def romA : Vector (Vector Int 8) 16 :=
  #v[#v[-3, -6, -9, -15, 2, 5, 8, 14],
    #v[-3, -7, -10, -13, 2, 6, 9, 12],
    #v[-2, -5, -8, -13, 1, 4, 7, 12],
    #v[-2, -4, -6, -13, 1, 3, 5, 12],
    #v[-3, -6, -8, -12, 2, 5, 7, 11],
    #v[-3, -7, -9, -11, 2, 6, 8, 10],
    #v[-4, -7, -8, -11, 3, 6, 7, 10],
    #v[-3, -5, -8, -11, 2, 4, 7, 10],
    #v[-2, -6, -8, -10, 1, 5, 7, 9],
    #v[-2, -5, -8, -10, 1, 4, 7, 9],
    #v[-2, -4, -8, -10, 1, 3, 7, 9],
    #v[-2, -5, -7, -10, 1, 4, 6, 9],
    #v[-3, -4, -7, -10, 2, 3, 6, 9],
    #v[-1, -2, -3, -10, 0, 1, 2, 9],
    #v[-4, -6, -8, -9, 3, 5, 7, 8],
    #v[-3, -5, -7, -9, 2, 4, 6, 8]]

/-- `LAYOUT_COLOR_LO` (spec 30_encoding R83, R84; positions as the spec gives them, UNVERIFIED, decision D11, log 16). -/
def specColorLayout : ColorLayout where
  indiv0 := ⟨28, 20, 12⟩
  indiv1 := ⟨24, 16, 8⟩
  diff0 := ⟨27, 19, 11⟩
  delta := ⟨24, 16, 8⟩
  t0 := 5
  t1 := 2

/-- `LAYOUT_PLANAR` (spec 30_encoding R86; positions as the spec gives them, UNVERIFIED, decision D13, log 16). -/
def specPlanarLayout : PlanarLayout where
  ro := 25
  go6 := 24
  go := 17
  bo5 := 16
  bo43 := 11
  bo := 7
  rh := 2
  gh := 57
  bh := 51
  rv := 45
  gv := 38
  bv := 32

/-- `LAYOUT_ALPHA_HDR` (spec 30_encoding R87; positions as the spec gives them, UNVERIFIED, decision D14, log 16). -/
def specAlphaLayout : AlphaLayout := { base := 56, mul := 52, tbl := 48 }

/-- `FORMAT_CODE` (spec 10_state R22, decision D7). -/
def specFormatCode : FormatCode := { etc1 := 6, dxt1 := 7, etc2Rgb := 22, etc2Rgba := 23 }

/-- `CSR_MAP` is open in the spec and no rule uses it: consecutive 32-bit words are a DESIGN CHOICE (log 24). -/
def modelCsrMap : CsrMap :=
  { format := 0, width := 4, height := 8, srcBase := 12, srcLen := 16, dstBase := 20, status := 24, ctrl := 28 }

/-- The parameter values of spec 00_scope R14: `RowMajor` (D10, log 17), the layouts and tables above and the upper half
(D11 to D16, log 16), any value (D17), `Literal` (D18, log 19), 32 (D5), the codes of D7; `ADDR_BITS` is open there and
64 is a DESIGN CHOICE (log 9), and so is `CSR_MAP` (log 24). -/
def specConfig : Config where
  wordBits := .bits64
  tileW := .four
  tileH := .four
  pixelBits := .bits32
  pixelLayout := .rgba
  wordLoadOrder := .littleEndian
  pixelOrder := .rowMajor
  layoutColorLo := specColorLayout
  indexMsbHalf := .upper
  layoutPlanar := specPlanarLayout
  layoutAlphaHdr := specAlphaLayout
  colorModTable := romC
  alphaModTable := romA
  rgOverflowPolicy := .anyValue
  dxt1Policy := .literal
  dimBits := 32
  addrBits := 64
  csrMap := modelCsrMap
  formatCode := specFormatCode

end Sys2Proof.Machine
end

