-- ==== Sys2Proof/Syntax.lean ====
section
/-! DEFINITION. The instructions: one constructor per row of spec/opcode_table.json, carrying every field of its layout. -/

namespace Sys2Proof

/-- The fields of the individual layout `FC_I` (spec 30_encoding R83): base colours `CR0 CG0 CB0` and `CR1 CG1 CB1`,
table codes `T0`, `T1`, `FLIP`, and the two index halves `IL`, `IH`. -/
structure IndivWord where
  c0 : Rgb (BitVec 4)
  c1 : Rgb (BitVec 4)
  t0 : BitVec 3
  t1 : BitVec 3
  flip : BitVec 1
  il : BitVec 16
  ih : BitVec 16
deriving DecidableEq, Repr

/-- The fields of the differential layout `FC_D` (spec 30_encoding R84): base-0 `CR0 CG0 CB0`, the raw delta fields
`DR DG DB` (two's complement), and the rest as in the individual layout. -/
structure DiffWord where
  c0 : Rgb (BitVec 5)
  d : Rgb (BitVec 3)
  t0 : BitVec 3
  t1 : BitVec 3
  flip : BitVec 1
  il : BitVec 16
  ih : BitVec 16
deriving DecidableEq, Repr

/-- One unexpanded planar control point: 6, 7 and 6 bits (spec 30_encoding R86). -/
structure PlanarPoint where
  r : BitVec 6
  g : BitVec 7
  b : BitVec 6
deriving DecidableEq, Repr

/-- The fields of the planar layout `FC_P` (spec 30_encoding R86): the control points O, H, V and the six unused bits
`N[31]`, `N[23]`, `N[15:13]`, `N[10]`, kept so that no bit of a word is lost. -/
structure PlanarWord where
  o : PlanarPoint
  h : PlanarPoint
  v : PlanarPoint
  u31 : BitVec 1
  u23 : BitVec 1
  u15 : BitVec 3
  u10 : BitVec 1
deriving DecidableEq, Repr

/-- The fields of the alpha layout `FA` (spec 30_encoding R87): `ABASE`, `AMUL`, `ATBL` and the sixteen 3-bit selectors
as the one field `A[47:0]`, ordinal 0 at its top. -/
structure AlphaWord where
  base : BitVec 8
  mul : BitVec 4
  tbl : BitVec 4
  sels : BitVec 48
deriving DecidableEq, Repr

/-- The four word operations and the one command (spec 00_scope R12, 45_sequencer R180). -/
inductive Instr where
  /-- `CW.INDIV` -/
  | cwIndiv (f : IndivWord)
  /-- `CW.PLANAR` -/
  | cwPlanar (f : PlanarWord)
  /-- `CW.DIFF` -/
  | cwDiff (f : DiffWord)
  /-- `AW.ALPHA` -/
  | awAlpha (f : AlphaWord)
  /-- `DECODE` -/
  | decode
deriving DecidableEq, Repr

end Sys2Proof
end

