-- ==== Sys2Proof/WellFormed.lean ====
section
/-! DEFINITION. Which terms of `Instr` some stored word means: the blue-sum test of the dispatcher, read off the fields. -/

namespace Sys2Proof

/-- `CB0 + DB` of a differential word (spec 41_color_endpoints R121). -/
def DiffWord.blueSum (f : DiffWord) : Int := f.c0.b.toNat + f.d.b.toInt

/-- The same sum as the dispatcher reads it from a planar word's bits: `CB0` is `N[15:11]` = the unused bits 15:13 and
`BO[4:3]`; `DB` is `N[10:8]` = the unused bit 10 and `BO[2:1]` (spec 30_encoding R86). -/
def PlanarWord.blueSum (f : PlanarWord) : Int :=
  (f.u15 ++ f.o.b.extractLsb' 3 2).toNat + (f.u10 ++ f.o.b.extractLsb' 1 2).toInt

/-- A term some word decodes to in the spec's layouts: a differential word's blue sum lies in 0..31, a planar word's does not
(spec 30_encoding R89, 41_color_endpoints R121); every other term is well formed (R91). -/
abbrev Instr.WellFormed : Instr → Prop
  | .cwIndiv _ => True
  | .cwPlanar f => f.blueSum < 0 ∨ 31 < f.blueSum
  | .cwDiff f => 0 ≤ f.blueSum ∧ f.blueSum ≤ 31
  | .awAlpha _ => True
  | .decode => True

end Sys2Proof
end

