-- ==== Sys2Proof/Decode.lean ====
section
/-! DEFINITION. From stored bytes to an instruction and back: the raw word load, the two byte-order rules, the field
positions, the mode dispatcher, the encoder, and the reading of a word of spec/opcode_table.json. -/

namespace Sys2Proof

/-! ### Byte order -/

/-- `bswap32` (spec 00_scope R16). -/
def bswap32 (v : BitVec 32) : BitVec 32 :=
  v.extractLsb' 0 8 ++ v.extractLsb' 8 8 ++ v.extractLsb' 16 8 ++ v.extractLsb' 24 8

/-- `bswap64` (spec 00_scope R16). -/
def bswap64 (v : BitVec 64) : BitVec 64 :=
  v.extractLsb' 0 8 ++ v.extractLsb' 8 8 ++ v.extractLsb' 16 8 ++ v.extractLsb' 24 8 ++
  v.extractLsb' 32 8 ++ v.extractLsb' 40 8 ++ v.extractLsb' 48 8 ++ v.extractLsb' 56 8

/-- The raw word of eight stored bytes, `b0` at the lowest address: a little-endian load
(spec 40_normalize R110, 20_memory R54; decision D3 of the spec, UNVERIFIED, log 23). -/
def loadWord (b0 b1 b2 b3 b4 b5 b6 b7 : Byte) : CodedWord :=
  b7 ++ b6 ++ b5 ++ b4 ++ b3 ++ b2 ++ b1 ++ b0

/-- The raw word under `WORD_LOAD_ORDER` (spec 00_scope R14). -/
def rawWord (o : WordLoadOrder) (b0 b1 b2 b3 b4 b5 b6 b7 : Byte) : CodedWord :=
  match o with
  | .littleEndian => loadWord b0 b1 b2 b3 b4 b5 b6 b7

/-- The eight stored bytes of a raw word, lowest address first. -/
def storeWord (w : CodedWord) : List Byte :=
  [w.extractLsb' 0 8, w.extractLsb' 8 8, w.extractLsb' 16 8, w.extractLsb' 24 8,
   w.extractLsb' 32 8, w.extractLsb' 40 8, w.extractLsb' 48 8, w.extractLsb' 56 8]

/-- `NORM_C` (spec 40_normalize R111): each 32-bit half byte-swapped in place. -/
def normC (w : CodedWord) : CodedWord :=
  bswap32 (w.extractLsb' 32 32) ++ bswap32 (w.extractLsb' 0 32)

/-- `NORM_A` (spec 40_normalize R112): the whole word byte-swapped as one unit. -/
def normA (w : CodedWord) : CodedWord := bswap64 w

/-! ### Fields and the mode dispatcher -/

/-- `sext_3` (spec 00_scope R16). -/
def sext3 (v : BitVec 3) : Int := if v.toNat < 4 then v.toNat else (v.toNat : Int) - 8

/-- The three modes of a colour word (spec 10_state R34). -/
inductive Mode where
  | individual
  | differential
  | planar
deriving DecidableEq, Repr

/-- Blue of base-1 before expansion, `CB0 + sext_3(DB)`, `N[15:11] + sext_3(N[10:8])` in the spec's layout
(spec 41_color_endpoints R121). -/
def blueSum (l : ColorLayout) (n : CodedWord) : Int :=
  (n.extractLsb' l.diff0.b 5).toNat + sext3 (n.extractLsb' l.delta.b 3)

/-- The mode dispatcher (spec 41_color_endpoints R121): `N[1]` first, then the blue sum alone (30_encoding R90). -/
def dispatchMode (l : ColorLayout) (n : CodedWord) : Mode :=
  if n.extractLsb' 1 1 = 0#1 then .individual
  else if blueSum l n < 0 ∨ 31 < blueSum l n then .planar
  else .differential

/-- The fields of one width at a colour's three positions. -/
def fieldsAt (w : Nat) (p : Rgb Nat) (n : CodedWord) : Rgb (BitVec w) := p.map fun lo => n.extractLsb' lo w

/-- The fields of an individual word (spec 30_encoding R83, R82, R85). -/
def indivFields (l : ColorLayout) (n : CodedWord) : IndivWord where
  c0 := fieldsAt 4 l.indiv0 n
  c1 := fieldsAt 4 l.indiv1 n
  t0 := n.extractLsb' l.t0 3
  t1 := n.extractLsb' l.t1 3
  flip := n.extractLsb' 0 1
  il := n.extractLsb' 32 16
  ih := n.extractLsb' 48 16

/-- The fields of a differential word (spec 30_encoding R84, R82, R85). -/
def diffFields (l : ColorLayout) (n : CodedWord) : DiffWord where
  c0 := fieldsAt 5 l.diff0 n
  d := fieldsAt 3 l.delta n
  t0 := n.extractLsb' l.t0 3
  t1 := n.extractLsb' l.t1 3
  flip := n.extractLsb' 0 1
  il := n.extractLsb' 32 16
  ih := n.extractLsb' 48 16

/-- The fields of a planar word (spec 30_encoding R86, R88, 43_planar R160). The bits `u31` to `u10` are the six that the
spec's layout leaves unused; nothing reads them. -/
def planarFields (l : PlanarLayout) (n : CodedWord) : PlanarWord where
  o := ⟨n.extractLsb' l.ro 6, n.extractLsb' l.go6 1 ++ n.extractLsb' l.go 6,
        n.extractLsb' l.bo5 1 ++ n.extractLsb' l.bo43 2 ++ n.extractLsb' l.bo 3⟩
  h := ⟨n.extractLsb' l.rh 5 ++ n.extractLsb' 0 1, n.extractLsb' l.gh 7, n.extractLsb' l.bh 6⟩
  v := ⟨n.extractLsb' l.rv 6, n.extractLsb' l.gv 7, n.extractLsb' l.bv 6⟩
  u31 := n.extractLsb' 31 1
  u23 := n.extractLsb' 23 1
  u15 := n.extractLsb' 13 3
  u10 := n.extractLsb' 10 1

/-- The fields of an alpha word (spec 30_encoding R87, 44_alpha R170). -/
def alphaFields (l : AlphaLayout) (a : CodedWord) : AlphaWord where
  base := a.extractLsb' l.base 8
  mul := a.extractLsb' l.mul 4
  tbl := a.extractLsb' l.tbl 4
  sels := a.extractLsb' 0 48

/-- The operation a normalized colour word selects (spec 30_encoding R89); every word selects one (R91). -/
def decodeColor (cfg : Config) (n : CodedWord) : Instr :=
  match dispatchMode cfg.layoutColorLo n with
  | .individual => .cwIndiv (indivFields cfg.layoutColorLo n)
  | .planar => .cwPlanar (planarFields cfg.layoutPlanar n)
  | .differential => .cwDiff (diffFields cfg.layoutColorLo n)

/-- The operation of a normalized alpha word (spec 30_encoding R89): always `AW.ALPHA`. -/
def decodeAlpha (cfg : Config) (a : CodedWord) : Instr := .awAlpha (alphaFields cfg.layoutAlphaHdr a)

/-- What a bit pattern is read as: the kind is decided by position, never by content (spec 30_encoding R81). -/
inductive WordKind where
  | color
  | alpha
  | command
deriving DecidableEq, Repr

/-- Why a byte list is no instruction: too few bytes for its kind, or a value written to CTRL whose bit 0 is 0
(spec 10_state R29: that write has no effect). -/
inductive DecodeError where
  | truncated
  | notStart
deriving DecidableEq, Repr

/-- A value written to CTRL (spec 10_state R29, opcode table row DECODE): bit 0 is START, no other bit has a meaning. -/
def decodeCommand (v : BitVec 32) : Except DecodeError Instr :=
  if v.extractLsb' 0 1 = 1#1 then .ok .decode else .error .notStart

/-- The instruction at the head of a list of stored bytes of the given kind, with the bytes after it. -/
def decodeBytes (cfg : Config) (k : WordKind) (bs : List Byte) : Except DecodeError (Instr × List Byte) :=
  match k, bs with
  | .color, b0 :: b1 :: b2 :: b3 :: b4 :: b5 :: b6 :: b7 :: rest =>
    .ok (decodeColor cfg (normC (rawWord cfg.wordLoadOrder b0 b1 b2 b3 b4 b5 b6 b7)), rest)
  | .alpha, b0 :: b1 :: b2 :: b3 :: b4 :: b5 :: b6 :: b7 :: rest =>
    .ok (decodeAlpha cfg (normA (rawWord cfg.wordLoadOrder b0 b1 b2 b3 b4 b5 b6 b7)), rest)
  | .command, b0 :: b1 :: b2 :: b3 :: rest =>
    match decodeCommand (b3 ++ b2 ++ b1 ++ b0) with
    | .ok i => .ok (i, rest)
    | .error e => .error e
  | _, _ => .error .truncated

/-! ### The encoder, for the layouts and the load order of the spec -/

/-- The normalized word of an individual word's fields (spec 30_encoding R83). -/
def encodeIndiv (f : IndivWord) : CodedWord :=
  f.ih ++ f.il ++ f.c0.r ++ f.c1.r ++ f.c0.g ++ f.c1.g ++ f.c0.b ++ f.c1.b ++ f.t0 ++ f.t1 ++ 0#1 ++ f.flip

/-- The normalized word of a differential word's fields (spec 30_encoding R84). -/
def encodeDiff (f : DiffWord) : CodedWord :=
  f.ih ++ f.il ++ f.c0.r ++ f.d.r ++ f.c0.g ++ f.d.g ++ f.c0.b ++ f.d.b ++ f.t0 ++ f.t1 ++ 1#1 ++ f.flip

/-- The normalized word of a planar word's fields (spec 30_encoding R86). -/
def encodePlanar (f : PlanarWord) : CodedWord :=
  f.h.g ++ f.h.b ++ f.v.r ++ f.v.g ++ f.v.b ++
  f.u31 ++ f.o.r ++ f.o.g.extractLsb' 6 1 ++ f.u23 ++ f.o.g.extractLsb' 0 6 ++ f.o.b.extractLsb' 5 1 ++
  f.u15 ++ f.o.b.extractLsb' 3 2 ++ f.u10 ++ f.o.b.extractLsb' 0 3 ++
  f.h.r.extractLsb' 1 5 ++ 1#1 ++ f.h.r.extractLsb' 0 1

/-- The normalized word of an alpha word's fields (spec 30_encoding R87). -/
def encodeAlpha (f : AlphaWord) : CodedWord := f.base ++ f.mul ++ f.tbl ++ f.sels

/-- The position an instruction's word is stored in (spec 30_encoding R81, 10_state R29). -/
def Instr.kind : Instr → WordKind
  | .cwIndiv _ => .color
  | .cwPlanar _ => .color
  | .cwDiff _ => .color
  | .awAlpha _ => .alpha
  | .decode => .command

/-- The stored bytes of an instruction, lowest address first (spec 20_memory R55); for the command the four bytes of
the value written to CTRL. -/
def encode : Instr → List Byte
  | .cwIndiv f => storeWord (normC (encodeIndiv f))
  | .cwPlanar f => storeWord (normC (encodePlanar f))
  | .cwDiff f => storeWord (normC (encodeDiff f))
  | .awAlpha f => storeWord (normA (encodeAlpha f))
  | .decode => [1#8, 0#8, 0#8, 0#8]

/-! ### Words of spec/opcode_table.json -/

/-- Which kind of word a table word is read as (DESIGN CHOICE, log 21). The table's rows of coded words and of the
command have overlapping bit patterns, since a word's kind is decided by position (spec 30_encoding R81): a word of no
table bits is an alpha word (the one row that fixes no bit), the value 1 in at most 32 bits is the value written to
CTRL, and every other word is a colour word. -/
def tableKind (nbits w : Nat) : WordKind :=
  if nbits = 0 then .alpha else if nbits ≤ 32 ∧ w = 1 then .command else .color

/-- The stored bytes of a table word: its bits are those of the normalized word (`N` or `A`, opcode_table.json "word"),
or of the value written to CTRL. -/
def tableBytes (nbits w : Nat) : List Byte :=
  match tableKind nbits w with
  | .color => storeWord (normC (BitVec.ofNat 64 w))
  | .alpha => storeWord (normA (BitVec.ofNat 64 w))
  | .command => [BitVec.ofNat 8 w, BitVec.ofNat 8 (w / 256), BitVec.ofNat 8 (w / 65536), BitVec.ofNat 8 (w / 16777216)]

/-- The instruction the decoder reads from a table word, with the parameter values of the spec; none for a number no word of 64 bits holds. -/
def decodeTableWord (nbits w : Nat) : Option Instr :=
  if w < 2 ^ 64 then
    match decodeBytes Machine.specConfig (tableKind nbits w) (tableBytes nbits w) with
    | .ok (i, _) => some i
    | .error _ => none
  else none

end Sys2Proof
end

