-- ==== Sys2Proof/Machine/State.lean ====
section
/-! DEFINITION. The state of one decoder instance (spec 10_state R20), the reasons a step can stop, and reset. -/

namespace Sys2Proof.Machine

/-- SRC or DST: byte cells, addresses strictly rising; an unlisted address has no value in the list (log 8). Pixel `p`
of DST is the four cells `4*p` to `4*p+3` (log 7). -/
abbrev Memory := List Host.Cell

/-- The canonical form of a memory: addresses strictly rising. -/
def Memory.wf : Memory → Bool
  | [] => true
  | [_] => true
  | c :: d :: m => decide (c.1 < d.1) && Memory.wf (d :: m)

/-- `STATUS` (spec 10_state R28): the fields the register stores; its other bits read 0 (`Status.toWord`, Flags.lean). -/
structure Status where
  busy : Bool
  done : Bool
  err : Bool
  errcode : BitVec 3
deriving DecidableEq, Repr

/-- The tile cursor (spec 10_state R31). Addresses and counts are unbounded naturals (spec 00_scope R18, decision D6). -/
structure Cursor where
  srcPtr : Nat
  dstPtr : Nat
  tx : Nat
  ty : Nat
deriving DecidableEq, Repr

/-- Which configuration registers have been written since the last reset: what premise `P-written` of spec 70 R266
speaks of (the model's own record, log 4). -/
structure Written where
  format : Bool
  width : Bool
  height : Bool
  srcBase : Bool
  srcLen : Bool
  dstBase : Bool
deriving DecidableEq, Repr

/-- The values that configuration registers written during the running command take when it ends (the model's own, log 13):
70 R273 and 93 U7 leave them at any value. `none`: not written during it. -/
structure Later where
  format : Option (BitVec 32)
  width : Option (BitVec 32)
  height : Option (BitVec 32)
  srcBase : Option Nat
  srcLen : Option Nat
  dstBase : Option Nat
deriving DecidableEq, Repr

/-- Which word of the current tile's record is executed next (spec 45_sequencer R187; the model's own, log 11). -/
inductive Phase where
  | color
  | alpha
deriving DecidableEq, Repr

/-- The working values of a word operation (spec 10_state R33 to R37). -/
structure Work where
  w : CodedWord
  n : CodedWord
  a : CodedWord
  flip : BitVec 1
  diff : BitVec 1
  mode : Mode
  c0 : Rgb Int
  c1 : Rgb Int
  d : Rgb Int
  base0 : Rgb Byte
  base1 : Rgb Byte
  tcw0 : BitVec 3
  tcw1 : BitVec 3
  idx : BitVec 32
  /-- `RO`, `GO`, `BO`; then `RH`, `GH`, `BH`; then `RV`, `GV`, `BV`. -/
  fo : PlanarPoint
  fh : PlanarPoint
  fv : PlanarPoint
  po : Rgb Byte
  ph : Rgb Byte
  pv : Rgb Byte
  abase : BitVec 8
  amul : BitVec 4
  atbl : BitVec 4
deriving DecidableEq, Repr

/-- What the host, the machine's one outside party, can do between two steps of the decoder (spec 00_scope R10,
10_state R22 to R29, 70 R260, R265, R270 to R273; log 12). -/
inductive HostEvent where
  /-- The host does nothing: the decoder takes its step. -/
  | run
  | writeFormat (v : BitVec 32)
  | writeWidth (v : BitVec 32)
  | writeHeight (v : BitVec 32)
  | writeSrcBase (v : Nat)
  | writeSrcLen (v : Nat)
  | writeDstBase (v : Nat)
  | writeCtrl (v : BitVec 32)
  /-- A byte placed in SRC. -/
  | writeSrc (a : Nat) (v : Byte)
  /-- A pixel written in DST. -/
  | writeDst (p : Nat) (v : Pixel)
  /-- A pixel read from DST: of interest only for the hazard rule R271. -/
  | readDst (p : Nat)
  | reset
deriving DecidableEq, Repr

/-- The decoder's launch refusals (spec 60_exceptions R231). -/
inductive LaunchError where
  | unsupportedPixelFormat
  | invalidGeometry
  | truncatedSource
deriving DecidableEq, Repr

/-- Why the machine stops: an access that the spec gives no step (60_exceptions R244, 93 U5, U8). -/
inductive Fault where
  /-- Raised by the fetch of a coded word one of whose bytes lies outside the `ADDR_BITS` address space. Safe: the
  machine stops where the spec says nothing. -/
  | srcOutOfRange
  /-- Raised by a word operation one of whose pixels lies outside the `ADDR_BITS` pixel index space. Safe: as above. -/
  | dstOutOfRange
deriving DecidableEq, Repr

/-- Why the machine gives an input no meaning. -/
inductive Refusal where
  /-- Raised by `exec` for an instruction with no meaning yet; no arm raises it. Safe. -/
  | notModelled (mnemonic : String)
deriving DecidableEq, Repr

/-- The complete state of one decoder instance (spec 10_state R20), its two memories (R43), and the model's own fields
`cfg`, `written`, `later`, `phase`, `host`, `interfered`, `freeNext` (INVENTORY.md, State). -/
structure State where
  cfg : Config
  format : BitVec 32
  width : BitVec 32
  height : BitVec 32
  srcBase : Nat
  srcLen : Nat
  dstBase : Nat
  written : Written
  later : Later
  status : Status
  cur : Cursor
  phase : Phase
  work : Work
  src : Memory
  dst : Memory
  /-- Premise `P-excl` was broken during the running command (spec 93 U4, U7, log 13, 14). -/
  interfered : Bool
  /-- How many free values have been drawn (log 6). -/
  freeNext : Nat
  /-- The host events not yet taken, the next one first (log 12). -/
  host : List HostEvent
deriving DecidableEq, Repr

/-- `STATUS` idle (spec 10_state R28, R45). -/
def Status.idle : Status := { busy := false, done := false, err := false, errcode := 0 }

/-- No configuration register written. -/
def Written.none : Written :=
  { format := false, width := false, height := false, srcBase := false, srcLen := false, dstBase := false }

/-- No configuration register written during a command. -/
def Later.none : Later :=
  { format := Option.none, width := Option.none, height := Option.none, srcBase := Option.none, srcLen := Option.none
    dstBase := Option.none }

/-- The working values after reset: unspecified and unobservable in the spec (10_state R38, R45); zero is a DESIGN
CHOICE (log 3). -/
def Work.initial : Work where
  w := 0
  n := 0
  a := 0
  flip := 0
  diff := 0
  mode := .individual
  c0 := ⟨0, 0, 0⟩
  c1 := ⟨0, 0, 0⟩
  d := ⟨0, 0, 0⟩
  base0 := ⟨0, 0, 0⟩
  base1 := ⟨0, 0, 0⟩
  tcw0 := 0
  tcw1 := 0
  idx := 0
  fo := ⟨0, 0, 0⟩
  fh := ⟨0, 0, 0⟩
  fv := ⟨0, 0, 0⟩
  po := ⟨0, 0, 0⟩
  ph := ⟨0, 0, 0⟩
  pv := ⟨0, 0, 0⟩
  abase := 0
  amul := 0
  atbl := 0

/-- The machine right after reset (spec 10_state R45, 70 R260): `STATUS` idle, nothing fetched, no host event pending.
The configuration registers, the cursor and the working values are zero: the spec gives them no value (DESIGN CHOICE,
log 2, 3). -/
def State.reset : State where
  cfg := specConfig
  format := 0
  width := 0
  height := 0
  srcBase := 0
  srcLen := 0
  dstBase := 0
  written := Written.none
  later := Later.none
  status := Status.idle
  cur := { srcPtr := 0, dstPtr := 0, tx := 0, ty := 0 }
  phase := .color
  work := Work.initial
  src := []
  dst := []
  interfered := false
  freeNext := 0
  host := []

end Sys2Proof.Machine
end

