-- ==== Sys2Proof/Machine/Flags.lean ====
section
/-! DEFINITION. The machine's only flags, the fields of `STATUS` (spec 10_state R28), and every value the rules give them. -/

namespace Sys2Proof.Machine

/-- What the host reads from `STATUS` (spec 10_state R28): BUSY at bit 0, DONE 1, ERR 2, ERRCODE 6:4, all other bits 0;
read as 32 bits (DESIGN CHOICE, log 24). -/
def Status.toWord (st : Status) : BitVec 32 :=
  0#25 ++ st.errcode ++ 0#1 ++ BitVec.ofBool st.err ++ BitVec.ofBool st.done ++ BitVec.ofBool st.busy

/-- The code of a refusal (spec 60_exceptions R231). -/
def LaunchError.code : LaunchError → BitVec 3
  | .unsupportedPixelFormat => 2
  | .invalidGeometry => 3
  | .truncatedSource => 5

/-- `STATUS` of an accepted command (spec 45_sequencer R181): the old flags cleared, BUSY set. -/
def Status.running : Status := { busy := true, done := false, err := false, errcode := 0 }

/-- `STATUS` of a completed command (spec 45_sequencer R190). -/
def Status.completed : Status := { busy := false, done := true, err := false, errcode := 0 }

/-- `STATUS` of a refused command (spec 45_sequencer R181). -/
def Status.refusedWith (e : LaunchError) : Status := { busy := false, done := false, err := true, errcode := e.code }

end Sys2Proof.Machine
end

