-- ==== Sys2Proof/Machine/Operands.lean ====
section
/-! DEFINITION. The operand forms of the word operations: expanders, clamp, pixel packing, pixel index, position,
sub-block, selector and table lookup. Pure functions of their operands. -/

namespace Sys2Proof.Machine

/-- `EXP4` (spec 41_color_endpoints R124). -/
def exp4 (v : BitVec 4) : Byte := v.setWidth 8 ||| (v.setWidth 8 <<< 4)

/-- `EXP5` (spec 41_color_endpoints R125). -/
def exp5 (v : BitVec 5) : Byte := (v.setWidth 8 <<< 3) ||| (v.setWidth 8 >>> 2)

/-- `EXP6` (spec 41_color_endpoints R126). -/
def exp6 (v : BitVec 6) : Byte := (v.setWidth 8 <<< 2) ||| (v.setWidth 8 >>> 4)

/-- `EXP7` (spec 41_color_endpoints R127). -/
def exp7 (v : BitVec 7) : Byte := (v.setWidth 8 <<< 1) ||| (v.setWidth 8 >>> 6)

/-- `clamp8` (spec 00_scope R16). -/
def clamp8 (v : Int) : Byte := if v < 0 then 0 else if 255 < v then 255 else BitVec.ofNat 8 v.toNat

/-- `pack` (spec 00_scope R16, 20_memory R56) under `PIXEL_LAYOUT`: R in bits 7:0, G in 15:8, B in 23:16, A in 31:24. -/
def pack (l : PixelLayout) (r g b a : Byte) : Pixel :=
  match l with
  | .rgba => a ++ b ++ g ++ r

/-- `SPREAD16` (spec 42_color_pixels R141): bit `k` of the half moves to bit `2k`. -/
def spread16 (h : BitVec 16) : BitVec 32 :=
  (List.range 16).foldl (fun acc k => acc ||| ((h.extractLsb' k 1).setWidth 32 <<< (2 * k))) 0

/-- `IDX` (spec 42_color_pixels R141), the high bit of each index from the half `INDEX_MSB_HALF` names. -/
def indexField (half : IndexMsbHalf) (il ih : BitVec 16) : BitVec 32 :=
  match half with
  | .upper => spread16 il ||| (spread16 ih <<< 1)
  | .lower => spread16 ih ||| (spread16 il <<< 1)

/-- The pixel index of ordinal `k`, `IDX[2k+1:2k]` (spec 42_color_pixels R141, R143). -/
def pixelIndex (idx : BitVec 32) (k : Nat) : BitVec 2 := idx.extractLsb' (2 * k) 2

/-- `x(k)`, the column of ordinal `k` (spec 42_color_pixels R146). -/
def colOf (o : PixelOrder) (k : Nat) : Nat :=
  match o with
  | .rowMajor => k % 4
  | .colMajor => k / 4

/-- `y(k)`, the row of ordinal `k` (spec 42_color_pixels R146). -/
def rowOf (o : PixelOrder) (k : Nat) : Nat :=
  match o with
  | .rowMajor => k / 4
  | .colMajor => k % 4

/-- The sub-block of the pixel at column `x`, row `y` (spec 42_color_pixels R142; the spec gives this by
decision D19, UNVERIFIED, log 18). -/
def subBlock (flip : BitVec 1) (x y : Nat) : Nat := if flip = 0#1 then x / 2 else y / 2

/-- `ROM_C[t][i]` (spec 42_color_pixels R143). -/
def colorMod (cfg : Config) (t : BitVec 3) (i : BitVec 2) : Int :=
  (cfg.colorModTable[t.toNat]'(by have := t.isLt; omega))[i.toNat]'(by have := i.isLt; omega)

/-- `ROM_A[t][s]` (spec 44_alpha R172). -/
def alphaMod (cfg : Config) (t : BitVec 4) (s : BitVec 3) : Int :=
  (cfg.alphaModTable[t.toNat]'(by have := t.isLt; omega))[s.toNat]'(by have := s.isLt; omega)

/-- `SEL[p]`, the selector of ordinal `p` (spec 44_alpha R171): three bits from bit `45 - 3p`. -/
def selector (sels : BitVec 48) (p : Nat) : BitVec 3 := sels.extractLsb' (45 - 3 * p) 3

/-- `C1[c]` lies outside 0..31, where `EXP5` is not defined (spec 41_color_endpoints R130). -/
def outside5 (v : Int) : Bool := decide (v < 0 ∨ 31 < v)

/-- One channel of the interpolated colour at column `i`, row `j` (spec 43_planar R163); `/ 4` is the floor division
that `>> 2` means (00_scope R15, decision D26). -/
def planarChannel (o h v : Byte) (i j : Nat) : Byte :=
  clamp8 (((i : Int) * ((h.toNat : Int) - o.toNat) + (j : Int) * ((v.toNat : Int) - o.toNat) + 4 * (o.toNat : Int) + 2) / 4)

/-- The alpha of a pixel (spec 44_alpha R172). -/
def alphaValue (cfg : Config) (base : BitVec 8) (mul tbl : BitVec 4) (sel : BitVec 3) : Byte :=
  clamp8 ((base.toNat : Int) + alphaMod cfg tbl sel * (mul.toNat : Int))

end Sys2Proof.Machine
end

