-- ==== Sys2Proof/Machine/Ops.lean ====
section
/-! DEFINITION. The named operations over memory and registers: byte cells, pixels, the tile store, the sizes a command
works with, refusal of a command, its completion, reset, and the host's register accesses. -/

namespace Sys2Proof.Machine

/-! ### One field replaced -/

def putWork (wk : Work) (s : State) : State := { s with work := wk }
def putDst (m : Memory) (s : State) : State := { s with dst := m }
def putSrc (m : Memory) (s : State) : State := { s with src := m }
def putFree (n : Nat) (s : State) : State := { s with freeNext := n }
def putStatus (st : Status) (s : State) : State := { s with status := st }
def putCursor (c : Cursor) (s : State) : State := { s with cur := c }
def putPhase (p : Phase) (s : State) : State := { s with phase := p }
def putInterfered (b : Bool) (s : State) : State := { s with interfered := b }
def putHost (es : List HostEvent) (s : State) : State := { s with host := es }
def putFormat (v : BitVec 32) (s : State) : State := { s with format := v }

/-! ### Byte cells -/

/-- The byte a memory lists at an address. -/
def Memory.read? : Memory → Nat → Option Byte
  | [], _ => none
  | c :: m, a => if c.1 = a then some c.2 else Memory.read? m a

/-- Store a byte, keeping the addresses rising. -/
def Memory.write : Memory → Nat → Byte → Memory
  | [], a, v => [(a, v)]
  | c :: m, a, v => if a < c.1 then (a, v) :: c :: m else if a = c.1 then (a, v) :: m else c :: Memory.write m a v

/-- The byte an access reads: the listed one, else the free value of what was there before (log 8). -/
def Memory.load (sp : Space) (m : Memory) (a : Nat) : Byte := (Memory.read? m a).getD (Config.unlistedByte sp a)

/-! ### Pixels of DST (spec 20_memory R51, R56) -/

/-- `MemRead(DST, p)` (spec 00_scope R17): bits 7:0 from the cell `4*p` (log 7). -/
def readPixel (m : Memory) (p : Nat) : Pixel :=
  Memory.load .dst m (4 * p + 3) ++ Memory.load .dst m (4 * p + 2) ++ Memory.load .dst m (4 * p + 1) ++
    Memory.load .dst m (4 * p)

/-- `MemWrite(DST, p, v)` (spec 00_scope R17). -/
def writePixel (m : Memory) (p : Nat) (v : Pixel) : Memory :=
  Memory.write (Memory.write (Memory.write (Memory.write m (4 * p) (v.extractLsb' 0 8)) (4 * p + 1) (v.extractLsb' 8 8))
    (4 * p + 2) (v.extractLsb' 16 8)) (4 * p + 3) (v.extractLsb' 24 8)

/-- A list of pixel stores, in order. -/
def writePixels (m : Memory) (ps : List (Nat × Pixel)) : Memory := ps.foldl (fun m q => writePixel m q.1 q.2) m

/-- A pixel with the lane of A, bits 31:24, replaced and the others kept (spec 44_alpha R173). -/
def withAlpha (l : PixelLayout) (old : Pixel) (a : Byte) : Pixel :=
  (old &&& ~~~(0x000000FF#32 <<< l.a)) ||| (a.setWidth 32 <<< l.a)

/-- The alpha update of one pixel (spec 44_alpha R173). -/
def updateAlpha (l : PixelLayout) (m : Memory) (p : Nat) (a : Byte) : Memory :=
  writePixel m p (withAlpha l (readPixel m p) a)

/-- A list of alpha updates, in order. -/
def updateAlphas (l : PixelLayout) (m : Memory) (ps : List (Nat × Byte)) : Memory :=
  ps.foldl (fun m q => updateAlpha l m q.1 q.2) m

/-- `k` pixels from `base` on become free values, those outside the index space of `limit` pixels apart (log 14, 15). -/
def scramble (m : Memory) (base limit draw : Nat) : Nat → Memory
  | 0 => m
  | k + 1 =>
    if base + k < limit then writePixel (scramble m base limit draw k) (base + k) (Config.freePixel (draw + k))
    else scramble m base limit draw k

/-! ### The tile -/

/-- The DST index of the tile's pixel at column `x`, row `y` (spec 42_color_pixels R145, 43_planar R164, 44_alpha R173). -/
def tilePixel (s : State) (x y : Nat) : Nat := s.cur.dstPtr + y * s.width.toNat + x

/-- All sixteen pixels of the tile lie in the pixel index space: the last one does. -/
abbrev tileInRange (s : State) : Prop := tilePixel s 3 3 < 2 ^ s.cfg.addrBits

/-- The ordinals 0..15, in the order the model stores the pixels (spec 42_color_pixels R147, decision D23, log 20). -/
def ordinals : List Nat := List.range 16

/-- The end of every word operation: DST becomes `m`, unless a pixel of the tile does not exist (60_exceptions R244, log 10). -/
def storeTile (m : Memory) (s : State) : Host.Outcome State Fault Refusal :=
  if tileInRange s then .next (putDst m s) else .fault .dstOutOfRange

/-! ### Sizes of a command -/

/-- `FORMAT` holds one of the four codes of `FORMAT_CODE` (spec 45_sequencer R182); under `DXT1_POLICY` = `Refuse` the
code of `Dxt1` is not one (spec 93 U2). -/
abbrev formatLegal (s : State) : Prop :=
  s.format = s.cfg.formatCode.etc1 ∨ (s.format = s.cfg.formatCode.dxt1 ∧ s.cfg.dxt1Policy = .literal) ∨
    s.format = s.cfg.formatCode.etc2Rgb ∨ s.format = s.cfg.formatCode.etc2Rgba

/-- `FORMAT` is `Etc2_RGBA`: the records hold two words (spec 30_encoding R80). -/
abbrev hasAlpha (s : State) : Prop := s.format = s.cfg.formatCode.etc2Rgba

/-- `WIDTH` and `HEIGHT` are multiples of `TILE_W` and `TILE_H`, 4 (spec 45_sequencer R183). -/
abbrev geometryLegal (s : State) : Prop :=
  s.width.toNat % s.cfg.tileW.toNat = 0 ∧ s.height.toNat % s.cfg.tileH.toNat = 0

/-- `REC`, the bytes of a tile record, 16 or 8: two words or one (spec 45_sequencer R184, 30_encoding R80). -/
def recBytes (s : State) : Nat := if hasAlpha s then 2 * s.cfg.wordBits.bytes else s.cfg.wordBits.bytes

/-- `TILES` (spec 45_sequencer R181). -/
def tiles (s : State) : Nat := (s.width.toNat / s.cfg.tileW.toNat) * (s.height.toNat / s.cfg.tileH.toNat)

/-- The number of pixels of the raster (spec 20_memory R51). -/
def rasterPixels (s : State) : Nat := s.width.toNat * s.height.toNat

/-- An address of the source bytes of premise `P-src` (spec 70 R266). -/
abbrev inSource (s : State) (a : Nat) : Prop := s.srcBase ≤ a ∧ a < s.srcBase + recBytes s * tiles s

/-- A pixel of the raster of premise `P-dst` (spec 70 R266). -/
abbrev inRaster (s : State) (p : Nat) : Prop := s.dstBase ≤ p ∧ p < s.dstBase + rasterPixels s

/-! ### Refusal (the machine's exception), completion, reset -/

/-- `refuse` (spec 45_sequencer R181, 60_exceptions R241): ERR and ERRCODE set, BUSY and DONE 0, no memory touched,
nothing saved. -/
def refuse (e : LaunchError) (s : State) : State := putStatus (Status.refusedWith e) s

/-- "Trap return" is the next START (spec 60_exceptions R242): DONE, ERR and ERRCODE cleared, nothing restored. -/
def clearFlags (s : State) : State := putStatus Status.idle s

/-- The raster of the running command becomes free values (spec 93 U4, U6). -/
def scrambleRaster (s : State) : State :=
  putFree (s.freeNext + rasterPixels s)
    (putDst (scramble s.dst s.dstBase (2 ^ s.cfg.addrBits) s.freeNext (rasterPixels s)) s)

/-- The configuration registers written during the command take their later values (spec 93 U7, log 13). -/
def settle (s : State) : State :=
  { s with
    format := s.later.format.getD s.format
    width := s.later.width.getD s.width
    height := s.later.height.getD s.height
    srcBase := s.later.srcBase.getD s.srcBase
    srcLen := s.later.srcLen.getD s.srcLen
    dstBase := s.later.dstBase.getD s.dstBase
    later := Later.none }

/-- Completion (spec 45_sequencer R190). Where premise `P-excl` was broken, the raster holds any values (spec 93 U4, U7).
The cursor stays where the last advance left it (`nextCursor`, Sequencer.lean, log 29). -/
def complete (s : State) : State :=
  if s.interfered then settle (putInterfered false (putStatus Status.completed (scrambleRaster s)))
  else putStatus Status.completed s

/-- Reset (spec 70 R260): idle, SRC and DST untouched. Reset of a running command leaves its raster at any values
(R261, 93 U6). -/
def resetMachine (s : State) : State :=
  { State.reset with
    cfg := s.cfg
    src := s.src
    dst := if s.status.busy then (scrambleRaster s).dst else s.dst
    freeNext := if s.status.busy then (scrambleRaster s).freeNext else s.freeNext
    host := s.host }

/-! ### The host's accesses -/

/-- The registers the host can name (spec 10_state R22 to R29). -/
inductive HostReg where
  | format | width | height | srcBase | srcLen | dstBase | status | ctrl
deriving DecidableEq, Repr

/-- What a host read of a register returns (spec 10_state R22 to R29): CTRL reads as 0. Reading changes nothing. A register
written during the running command reads as its later value (log 13). -/
def hostRead (s : State) : HostReg → Nat
  | .format => (s.later.format.getD s.format).toNat
  | .width => (s.later.width.getD s.width).toNat
  | .height => (s.later.height.getD s.height).toNat
  | .srcBase => s.later.srcBase.getD s.srcBase
  | .srcLen => s.later.srcLen.getD s.srcLen
  | .dstBase => s.later.dstBase.getD s.dstBase
  | .status => s.status.toWord.toNat
  | .ctrl => 0

/-- The value an `ADDR_BITS` wide register holds after a write (spec 10_state R25 to R27, log 9). -/
def toAddr (s : State) (v : Nat) : Nat := v % 2 ^ s.cfg.addrBits

/-- The value a `DIM_BITS` wide register holds after a write (spec 10_state R23, R24, log 9). -/
def toDim (s : State) (v : BitVec 32) : BitVec 32 := BitVec.ofNat 32 (v.toNat % 2 ^ s.cfg.dimBits)

/-! A configuration register takes the value written while BUSY = 0 (spec 10_state section 2). -/

def setFormat (v : BitVec 32) (s : State) : State :=
  { s with format := v, written := { s.written with format := true } }
def setWidth (v : BitVec 32) (s : State) : State :=
  { s with width := toDim s v, written := { s.written with width := true } }
def setHeight (v : BitVec 32) (s : State) : State :=
  { s with height := toDim s v, written := { s.written with height := true } }
def setSrcBase (v : Nat) (s : State) : State :=
  { s with srcBase := toAddr s v, written := { s.written with srcBase := true } }
def setSrcLen (v : Nat) (s : State) : State :=
  { s with srcLen := toAddr s v, written := { s.written with srcLen := true } }
def setDstBase (v : Nat) (s : State) : State :=
  { s with dstBase := toAddr s v, written := { s.written with dstBase := true } }

/-! A register written while BUSY = 1 will hold any value (93 U7): a free value `n` of its width. -/

def laterFormat (n : Nat) (s : State) : State :=
  { s with later := { s.later with format := some (BitVec.ofNat 32 n) }, written := { s.written with format := true } }
def laterWidth (n : Nat) (s : State) : State :=
  { s with later := { s.later with width := some (toDim s (BitVec.ofNat 32 n)) }
           written := { s.written with width := true } }
def laterHeight (n : Nat) (s : State) : State :=
  { s with later := { s.later with height := some (toDim s (BitVec.ofNat 32 n)) }
           written := { s.written with height := true } }
def laterSrcBase (n : Nat) (s : State) : State :=
  { s with later := { s.later with srcBase := some (toAddr s n) }, written := { s.written with srcBase := true } }
def laterSrcLen (n : Nat) (s : State) : State :=
  { s with later := { s.later with srcLen := some (toAddr s n) }, written := { s.written with srcLen := true } }
def laterDstBase (n : Nat) (s : State) : State :=
  { s with later := { s.later with dstBase := some (toAddr s n) }, written := { s.written with dstBase := true } }

/-- A host write of a configuration register while BUSY = 1 (70 R273, 93 U7): the register's later value and the running
command's result are any value, whatever was written (log 13). -/
def disturb (later : Nat → State → State) (s : State) : State :=
  putInterfered true (putFree (s.freeNext + 1) (later (Config.freeRegister s.freeNext) s))

/-- A host write of a configuration register. -/
def configWrite (now : State → State) (later : Nat → State → State) (s : State) : Host.Outcome State Fault Refusal :=
  .next (if s.status.busy then disturb later s else now s)

/-- The host touches memory the running command owns: premise `P-excl` is broken (spec 70 R270, R271, 93 U4). -/
def noteTouch (touches : Bool) (s : State) : State :=
  if s.status.busy && touches then putInterfered true s else s

/-- The host places a byte in SRC. -/
def hostWriteSrc (a : Nat) (v : Byte) (s : State) : Host.Outcome State Fault Refusal :=
  if a < 2 ^ s.cfg.addrBits then
    .next (putSrc (Memory.write s.src a v) (noteTouch (decide (inSource s a)) s))
  else .fault .srcOutOfRange

/-- The host writes a pixel of DST. -/
def hostWriteDst (p : Nat) (v : Pixel) (s : State) : Host.Outcome State Fault Refusal :=
  if p < 2 ^ s.cfg.addrBits then
    .next (putDst (writePixel s.dst p v) (noteTouch (decide (inRaster s p)) s))
  else .fault .dstOutOfRange

/-- The host reads a pixel of DST. -/
def hostReadDst (p : Nat) (s : State) : Host.Outcome State Fault Refusal :=
  if p < 2 ^ s.cfg.addrBits then .next (noteTouch (decide (inRaster s p)) s) else .fault .dstOutOfRange

/-! ### Bus addresses (`CSR_MAP`, spec 00_scope R14; no rule and no step uses them, log 24) -/

/-- The register at a bus address. -/
def csrReg (m : CsrMap) (a : Nat) : Option HostReg :=
  if a = m.format then some .format else if a = m.width then some .width else if a = m.height then some .height
  else if a = m.srcBase then some .srcBase else if a = m.srcLen then some .srcLen
  else if a = m.dstBase then some .dstBase else if a = m.status then some .status
  else if a = m.ctrl then some .ctrl else none

/-- A host read at a bus address; none where no register stands. -/
def busRead (s : State) (a : Nat) : Option Nat := (csrReg s.cfg.csrMap a).map (hostRead s)

/-- The host event of a write of `v` at a bus address; none where no register stands, or one that the host cannot write
(`STATUS`, spec 10_state R28). -/
def busWrite (cfg : Config) (a v : Nat) : Option HostEvent :=
  match csrReg cfg.csrMap a with
  | some .format => some (.writeFormat (BitVec.ofNat 32 v))
  | some .width => some (.writeWidth (BitVec.ofNat 32 v))
  | some .height => some (.writeHeight (BitVec.ofNat 32 v))
  | some .srcBase => some (.writeSrcBase v)
  | some .srcLen => some (.writeSrcLen v)
  | some .dstBase => some (.writeDstBase v)
  | some .ctrl => some (.writeCtrl (BitVec.ofNat 32 v))
  | some .status => none
  | none => none

end Sys2Proof.Machine
end

