-- ==== Sys2Proof/Machine/Alpha.lean ====
section
/-! DEFINITION. `AW.ALPHA`: the alpha byte of the tile's sixteen pixels (spec 44_alpha). -/

namespace Sys2Proof.Machine

/-- The working values of an alpha word (spec 44_alpha R170). -/
def alphaWork (f : AlphaWord) (wk : Work) : Work := { wk with abase := f.base, amul := f.mul, atbl := f.tbl }

/-- The sixteen updates (spec 44_alpha R171 to R174). -/
def alphaStores (s : State) (sels : BitVec 48) : List (Nat × Byte) :=
  ordinals.map fun p =>
    (tilePixel s (colOf s.cfg.pixelOrder p) (rowOf s.cfg.pixelOrder p),
     alphaValue s.cfg s.work.abase s.work.amul s.work.atbl (selector sels p))

/-- R174 of spec 44_alpha on the working values of `s`. -/
def storeAlphaTile (sels : BitVec 48) (s : State) : Host.Outcome State Fault Refusal :=
  storeTile (updateAlphas s.cfg.pixelLayout s.dst (alphaStores s sels)) s

/-- `AW.ALPHA` (spec 44_alpha R174). -/
def execAwAlpha (f : AlphaWord) (s : State) : Host.Outcome State Fault Refusal :=
  storeAlphaTile f.sels (putWork (alphaWork f s.work) s)

end Sys2Proof.Machine
end

