-- ==== Sys2Proof/Machine/Color.lean ====
section
/-! DEFINITION. `CW.INDIV` and `CW.DIFF`: base colours (spec 41_color_endpoints) and the sixteen pixels (42_color_pixels). -/

namespace Sys2Proof.Machine

/-! ### The second half, shared by both operations (spec 42_color_pixels R148) -/

/-- The sub-block of ordinal `k` (spec 42_color_pixels R146, R142). -/
def ordinalSub (cfg : Config) (wk : Work) (k : Nat) : Nat :=
  subBlock wk.flip (colOf cfg.pixelOrder k) (rowOf cfg.pixelOrder k)

/-- The expanded base colour of ordinal `k`'s sub-block. -/
def ordinalBase (cfg : Config) (wk : Work) (k : Nat) : Rgb Byte := if ordinalSub cfg wk k = 0 then wk.base0 else wk.base1

/-- The signed modifier of ordinal `k` (spec 42_color_pixels R143). -/
def ordinalMod (cfg : Config) (wk : Work) (k : Nat) : Int :=
  colorMod cfg (if ordinalSub cfg wk k = 0 then wk.tcw0 else wk.tcw1) (pixelIndex wk.idx k)

/-- A byte that 41_color_endpoints R130 leaves open, under `RG_OVERFLOW_POLICY`. -/
def openByte (p : RgOverflowPolicy) (draw : Nat) : Byte :=
  match p with
  | .anyValue => Config.freeByte draw

/-- One output channel (spec 42_color_pixels R144), or a free value where 41_color_endpoints R130 (c) leaves it open. -/
def colorChannel (p : RgOverflowPolicy) (isOpen : Bool) (draw : Nat) (base : Byte) (m : Int) : Byte :=
  if isOpen then openByte p draw else clamp8 ((base.toNat : Int) + m)

/-- The pixel of ordinal `k` (spec 42_color_pixels R144, R145). `op` says which channels of base-1 are out of range;
only sub-block 1 is affected (41_color_endpoints R130). Channel `c` of ordinal `k` takes draw `draw + 3*k + c`. -/
def colorPixel (cfg : Config) (wk : Work) (op : Rgb Bool) (draw k : Nat) : Pixel :=
  pack cfg.pixelLayout
    (colorChannel cfg.rgOverflowPolicy (op.r && decide (ordinalSub cfg wk k ≠ 0)) (draw + 3 * k)
      (ordinalBase cfg wk k).r (ordinalMod cfg wk k))
    (colorChannel cfg.rgOverflowPolicy (op.g && decide (ordinalSub cfg wk k ≠ 0)) (draw + 3 * k + 1)
      (ordinalBase cfg wk k).g (ordinalMod cfg wk k))
    (colorChannel cfg.rgOverflowPolicy (op.b && decide (ordinalSub cfg wk k ≠ 0)) (draw + 3 * k + 2)
      (ordinalBase cfg wk k).b (ordinalMod cfg wk k))
    255

/-- The sixteen stores of the tile (spec 42_color_pixels R148). -/
def colorStores (s : State) (op : Rgb Bool) (draw : Nat) : List (Nat × Pixel) :=
  ordinals.map fun k =>
    (tilePixel s (colOf s.cfg.pixelOrder k) (rowOf s.cfg.pixelOrder k), colorPixel s.cfg s.work op draw k)

/-- R148 of spec 42_color_pixels on the working values of `s`. -/
def storeColorTile (op : Rgb Bool) (draw : Nat) (s : State) : Host.Outcome State Fault Refusal :=
  storeTile (writePixels s.dst (colorStores s op draw)) s

/-! ### `CW.INDIV` -/

/-- No channel is open. -/
def noneOpen : Rgb Bool := ⟨false, false, false⟩

/-- The working values of an individual word (spec 41_color_endpoints R120, R121, R128; 42_color_pixels R140, R141). -/
def indivWork (cfg : Config) (f : IndivWord) (wk : Work) : Work :=
  { wk with
    flip := f.flip
    diff := 0
    mode := .individual
    c0 := f.c0.map (fun v => (v.toNat : Int))
    c1 := f.c1.map (fun v => (v.toNat : Int))
    base0 := f.c0.map exp4
    base1 := f.c1.map exp4
    tcw0 := f.t0
    tcw1 := f.t1
    idx := indexField cfg.indexMsbHalf f.il f.ih }

/-- `CW.INDIV` (spec 41_color_endpoints R128, 42_color_pixels R148). -/
def execCwIndiv (f : IndivWord) (s : State) : Host.Outcome State Fault Refusal :=
  storeColorTile noneOpen s.freeNext (putWork (indivWork s.cfg f s.work) s)

/-! ### `CW.DIFF` -/

/-- `D[c]` (spec 41_color_endpoints R129). -/
def diffDelta (f : DiffWord) : Rgb Int := f.d.map sext3

/-- `C1[c] = C0[c] + D[c]`, signed (spec 41_color_endpoints R129). -/
def diffBase1 (f : DiffWord) : Rgb Int := Rgb.zip (fun (c : BitVec 5) (d : Int) => (c.toNat : Int) + d) f.c0 (diffDelta f)

/-- The channels whose `C1[c]` lies outside 0..31 (spec 41_color_endpoints R130). -/
def diffOpen (f : DiffWord) : Rgb Bool := (diffBase1 f).map outside5

/-- `BASE[1][c]`: `EXP5(C1[c])` in range (spec 41_color_endpoints R129), else a free value (R130, log 5). -/
def diffExpand (p : RgOverflowPolicy) (draw : Nat) (c1 : Int) : Byte :=
  if outside5 c1 then openByte p draw else exp5 (BitVec.ofNat 5 c1.toNat)

/-- The draws one word with an open channel takes: three for each ordinal, then three for `BASE[1]` (log 6). -/
def diffDraws : Nat := 51

/-- The working values of a differential word (spec 41_color_endpoints R120, R121, R129; 42_color_pixels R140, R141). -/
def diffWork (cfg : Config) (draw : Nat) (f : DiffWord) (wk : Work) : Work :=
  { wk with
    flip := f.flip
    diff := 1
    mode := .differential
    c0 := f.c0.map (fun v => (v.toNat : Int))
    c1 := diffBase1 f
    d := diffDelta f
    base0 := f.c0.map exp5
    base1 := ⟨diffExpand cfg.rgOverflowPolicy (draw + 48) (diffBase1 f).r,
              diffExpand cfg.rgOverflowPolicy (draw + 49) (diffBase1 f).g,
              diffExpand cfg.rgOverflowPolicy (draw + 50) (diffBase1 f).b⟩
    tcw0 := f.t0
    tcw1 := f.t1
    idx := indexField cfg.indexMsbHalf f.il f.ih }

/-- How many free values a differential word draws: none unless a channel is open. -/
def diffDrawn (f : DiffWord) : Nat :=
  if (diffOpen f).r || (diffOpen f).g || (diffOpen f).b then diffDraws else 0

/-- `CW.DIFF` (spec 41_color_endpoints R129, R130, 42_color_pixels R148). -/
def execCwDiff (f : DiffWord) (s : State) : Host.Outcome State Fault Refusal :=
  storeColorTile (diffOpen f) s.freeNext
    (putFree (s.freeNext + diffDrawn f) (putWork (diffWork s.cfg s.freeNext f s.work) s))

end Sys2Proof.Machine
end

