-- ==== Sys2Proof/Machine/Command.lean ====
section
/-! DEFINITION. `DECODE`: acceptance or refusal of the command (spec 45_sequencer R181 to R184, R192). The tile loop it
starts is run by the steps that follow (Sequencer.lean, log 11). -/

namespace Sys2Proof.Machine

/-- The launch checks in the spec's order; the first that fails is reported (spec 45_sequencer R181, 60_exceptions R237). -/
def launchCheck (s : State) : Option LaunchError :=
  if ¬ formatLegal s then some .unsupportedPixelFormat
  else if ¬ geometryLegal s then some .invalidGeometry
  else if s.srcLen < recBytes s * tiles s then some .truncatedSource
  else none

/-- The cursor of a command's first tile (spec 45_sequencer R181). -/
def firstTile (s : State) : Cursor := { srcPtr := s.srcBase, dstPtr := s.dstBase, tx := 0, ty := 0 }

/-- A command begun (spec 45_sequencer R181): BUSY set, the cursor at the first tile, the colour word next (R187). -/
def beginCommand (s : State) : State :=
  putInterfered false (putPhase .color (putCursor (firstTile s) (putStatus Status.running s)))

/-- Acceptance (spec 45_sequencer R181). An image of no tiles is complete at once (R192). -/
def accept (s : State) : State := if tiles s = 0 then complete (beginCommand s) else beginCommand s

/-- The checks, then refusal or acceptance. -/
def launch (s : State) : State :=
  match launchCheck s with
  | some e => refuse e s
  | none => accept s

/-- `DECODE` (spec 45_sequencer R181): ignored while BUSY = 1 (10_state R29). -/
def execDecode (s : State) : Host.Outcome State Fault Refusal :=
  if s.status.busy then .next s else .next (launch (clearFlags s))

end Sys2Proof.Machine
end

