-- ==== Sys2Proof/Machine/Planar.lean ====
section
/-! DEFINITION. `CW.PLANAR`: the interpolation of three control points (spec 43_planar). -/

namespace Sys2Proof.Machine

/-- The expanded channels of a control point (spec 43_planar R161). -/
def expandPoint (p : PlanarPoint) : Rgb Byte := ⟨exp6 p.r, exp7 p.g, exp6 p.b⟩

/-- The working values of a planar word (spec 41_color_endpoints R120, R121; 43_planar R160, R161). `FLIP` was read
from `N[0]`, the low bit of `RH` (30_encoding R82). -/
def planarWork (f : PlanarWord) (wk : Work) : Work :=
  { wk with
    flip := f.h.r.extractLsb' 0 1
    diff := 1
    mode := .planar
    fo := f.o
    fh := f.h
    fv := f.v
    po := expandPoint f.o
    ph := expandPoint f.h
    pv := expandPoint f.v }

/-- The pixel at column `i`, row `j` (spec 43_planar R163, R164). -/
def planarPixel (cfg : Config) (wk : Work) (i j : Nat) : Pixel :=
  pack cfg.pixelLayout (planarChannel wk.po.r wk.ph.r wk.pv.r i j) (planarChannel wk.po.g wk.ph.g wk.pv.g i j)
    (planarChannel wk.po.b wk.ph.b wk.pv.b i j) 255

/-- The sixteen stores (spec 43_planar R164): real tile coordinates, row by row, whatever `PIXEL_ORDER` is. -/
def planarStores (s : State) : List (Nat × Pixel) :=
  ordinals.map fun k => (tilePixel s (k % 4) (k / 4), planarPixel s.cfg s.work (k % 4) (k / 4))

/-- R164 of spec 43_planar on the working values of `s`. -/
def storePlanarTile (s : State) : Host.Outcome State Fault Refusal :=
  storeTile (writePixels s.dst (planarStores s)) s

/-- `CW.PLANAR` (spec 43_planar R165). -/
def execCwPlanar (f : PlanarWord) (s : State) : Host.Outcome State Fault Refusal :=
  storePlanarTile (putWork (planarWork f s.work) s)

end Sys2Proof.Machine
end

