-- ==== Sys2Proof/Machine/Dispatch.lean ====
section
/-! DEFINITION. One arm per instruction, each a direct call of its meaning. -/

namespace Sys2Proof.Machine

def exec (i : Instr) (s : State) : Host.Outcome State Fault Refusal :=
  match i with
  | .cwIndiv f => Sys2Proof.Machine.execCwIndiv f s
  | .cwPlanar f => Sys2Proof.Machine.execCwPlanar f s
  | .cwDiff f => Sys2Proof.Machine.execCwDiff f s
  | .awAlpha f => Sys2Proof.Machine.execAwAlpha f s
  | .decode => Sys2Proof.Machine.execDecode s

end Sys2Proof.Machine
end

