-- ==== Sys2Proof/Machine/Sequencer.lean ====
section
/-! DEFINITION. The tile walk (spec 45_sequencer): the fetch of the next word, the advance of the cursor, the end of the
command, and which agent moves next. -/

namespace Sys2Proof.Machine

/-! ### Fetch -/

/-- The address of the next word: in an `Etc2_RGBA` record the colour word is the second word and is executed first
(spec 45_sequencer R187, 30_encoding R81). -/
def fetchAddr (s : State) : Nat :=
  match s.phase with
  | .color => if hasAlpha s then s.cur.srcPtr + s.cfg.wordBits.bytes else s.cur.srcPtr
  | .alpha => s.cur.srcPtr

/-- The eight bytes exist (premise `P-src`, `P-range` of spec 70 R266). -/
abbrev fetchInRange (s : State) : Prop := fetchAddr s + 7 < 2 ^ s.cfg.addrBits

/-- The raw word the stored bytes at `a` form, at any alignment (spec 40_normalize R110, 20_memory R57). -/
def storedWord (o : WordLoadOrder) (m : Memory) (a : Nat) : CodedWord :=
  rawWord o (Memory.load .src m a) (Memory.load .src m (a + 1)) (Memory.load .src m (a + 2)) (Memory.load .src m (a + 3))
    (Memory.load .src m (a + 4)) (Memory.load .src m (a + 5)) (Memory.load .src m (a + 6)) (Memory.load .src m (a + 7))

/-- `FETCH` (spec 40_normalize R110); after an interfering access each fetched word is a free value (93 U4). -/
def fetchWord (s : State) : CodedWord :=
  if s.interfered then Config.freeWord s.freeNext else storedWord s.cfg.wordLoadOrder s.src (fetchAddr s)

/-- The instruction of the fetched word (spec 45_sequencer R187): `NORM_C` and the dispatcher, or `NORM_A`. -/
def fetchInstr (s : State) : Instr :=
  match s.phase with
  | .color => decodeColor s.cfg (normC (fetchWord s))
  | .alpha => decodeAlpha s.cfg (normA (fetchWord s))

/-- The working values after the fetch: `W` and `N`, or `W` and `A` (spec 40_normalize R110 to R112). -/
def fetchWork (s : State) : Work :=
  match s.phase with
  | .color => { s.work with w := fetchWord s, n := normC (fetchWord s) }
  | .alpha => { s.work with w := fetchWord s, a := normA (fetchWord s) }

/-- The state after the fetch. -/
def fetched (s : State) : State :=
  putFree (if s.interfered then s.freeNext + 1 else s.freeNext) (putWork (fetchWork s) s)

/-! ### The cursor -/

/-- The advance after a tile and, at its last column, after a row of tiles (spec 45_sequencer R188, R189). After the last
tile `TX` is 0 and `TY` is `HEIGHT/4`, one past the range of 10_state R31: the spec leaves the cursor between commands at
any value (93 U10), and these two are a DESIGN CHOICE that no host access shows (log 29). -/
def nextCursor (s : State) : Cursor :=
  if s.cur.tx + 1 < s.width.toNat / s.cfg.tileW.toNat then
    { srcPtr := s.cur.srcPtr + recBytes s, dstPtr := s.cur.dstPtr + s.cfg.tileW.toNat, tx := s.cur.tx + 1, ty := s.cur.ty }
  else
    { srcPtr := s.cur.srcPtr + recBytes s
      dstPtr := s.cur.dstPtr + s.cfg.tileW.toNat + (s.cfg.tileH.toNat - 1) * s.width.toNat
      tx := 0
      ty := s.cur.ty + 1 }

/-- The end of a tile: the cursor advances, and after the last tile the command completes (spec 45_sequencer R185, R190),
the cursor one tile row past the image (log 29). -/
def tileDone (s : State) : State :=
  if (nextCursor s).ty < s.height.toNat / s.cfg.tileH.toNat then putPhase .color (putCursor (nextCursor s) s)
  else complete (putPhase .color (putCursor (nextCursor s) s))

/-- What follows a word operation: the alpha word of the same tile, or the end of the tile (spec 45_sequencer R187). -/
def wordDone (s : State) : State :=
  if s.phase = .color ∧ hasAlpha s then putPhase .alpha s else tileDone s

/-- What follows an instruction inside the same step: a command adds nothing. -/
def afterInstr (i : Instr) (s : State) : State :=
  match i.kind with
  | .command => s
  | .color => wordDone s
  | .alpha => wordDone s

/-! ### Which agent moves -/

/-- What the next step does: an instruction on a state, or an outcome without one. -/
inductive Plan where
  | instr (i : Instr) (s : State)
  | direct (o : Host.Outcome State Fault Refusal)

/-- The decoder's own move: fetch and execute one word while BUSY; nothing while idle (spec 10_state R45). -/
def decoderPlan (s : State) : Plan :=
  if s.status.busy then
    if fetchInRange s then .instr (fetchInstr s) (fetched s) else .direct (.fault .srcOutOfRange)
  else .direct (.next s)

/-- A write of CTRL (spec 10_state R29): START is the command, any other value has no effect. -/
def ctrlPlan (v : BitVec 32) (s : State) : Plan :=
  match decodeCommand v with
  | .ok i => .instr i s
  | .error _ => .direct (.next s)

/-- The host's move. -/
def hostPlan (e : HostEvent) (s : State) : Plan :=
  match e with
  | .run => decoderPlan s
  | .writeFormat v => .direct (configWrite (setFormat v) laterFormat s)
  | .writeWidth v => .direct (configWrite (setWidth v) laterWidth s)
  | .writeHeight v => .direct (configWrite (setHeight v) laterHeight s)
  | .writeSrcBase v => .direct (configWrite (setSrcBase v) laterSrcBase s)
  | .writeSrcLen v => .direct (configWrite (setSrcLen v) laterSrcLen s)
  | .writeDstBase v => .direct (configWrite (setDstBase v) laterDstBase s)
  | .writeCtrl v => ctrlPlan v s
  | .writeSrc a v => .direct (hostWriteSrc a v s)
  | .writeDst p v => .direct (hostWriteDst p v s)
  | .readDst p => .direct (hostReadDst p s)
  | .reset => .direct (.next (resetMachine s))

/-- One move: the host's next event if it has one pending, else the decoder's. -/
def plan (s : State) : Plan :=
  match s.host with
  | [] => decoderPlan s
  | e :: rest => hostPlan e (putHost rest s)

/-- The state after an instruction of a step, with what the step adds. -/
def afterOutcome (i : Instr) : Host.Outcome State Fault Refusal → Host.Outcome State Fault Refusal
  | .next s => .next (afterInstr i s)
  | .fault r => .fault r
  | .refused r => .refused r

/-! ### A single word as the running command -/

/-- Bytes placed in SRC from an address on. -/
def placeBytes (m : Memory) (a : Nat) : List Byte → Memory
  | [] => m
  | b :: bs => placeBytes (Memory.write m a b) (a + 1) bs

/-- A command of one tile in progress whose next word is the given one: what a launch of that tile would have set
(spec 45_sequencer R181), with the word's bytes where the fetch reads them (log 22). -/
def placeWord (format : BitVec 32) (phase : Phase) (rec off : Nat) (bytes : List Byte) (s : State) : State :=
  { s with
    format := format
    width := 4
    height := 4
    srcLen := rec
    status := Status.running
    cur := { srcPtr := s.srcBase, dstPtr := s.dstBase, tx := 0, ty := 0 }
    phase := phase
    interfered := false
    src := placeBytes s.src (s.srcBase + off) bytes
    host := .run :: s.host }

/-- The state whose next step runs the given table word (log 21, 22): a pending CTRL write, the one word of an
`Etc2_RGB` tile, or the alpha word of an `Etc2_RGBA` tile whose colour word has been executed. -/
def placeTableWord (s : State) (nbits w : Nat) : State :=
  match tableKind nbits w with
  | .command => putHost (.writeCtrl (BitVec.ofNat 32 w) :: s.host) s
  | .color => placeWord s.cfg.formatCode.etc2Rgb .color 8 0 (tableBytes nbits w) s
  | .alpha => placeWord s.cfg.formatCode.etc2Rgba .alpha 16 0 (tableBytes nbits w) s

end Sys2Proof.Machine
end

