-- ==== Sys2Proof/Machine/Step.lean ====
section
/-! DEFINITION. One step of the machine: one host event or one word operation (log 11). -/

namespace Sys2Proof.Machine

/-- A move's outcome: `exec` of its instruction with what the step adds around it, or the outcome it has without one. -/
def runPlan : Plan → Host.Outcome State Fault Refusal
  | .instr i t => afterOutcome i (exec i t)
  | .direct o => o

/-- One step. -/
def step (s : State) : Host.Outcome State Fault Refusal := runPlan (plan s)

/-- The state whose next step fetches and runs the given table word (`placeTableWord`, Sequencer.lean). -/
def State.withFetchWord (s : State) (nbits w : Nat) : State := placeTableWord s nbits w

end Sys2Proof.Machine
end

