-- ==== Sys2Proof/Machine/Container.lean ====
section
/-! DEFINITION. The host-side contract (spec 48_host_container): software outside the block (00_scope R7), given as pure
functions because the configuration registers are derived from it. No step of the machine uses this file (log 26). -/

namespace Sys2Proof.Machine

/-- The error kinds of the host software with their codes (spec 60_exceptions R231). -/
inductive ContainerError where
  | unknownContainerFormat
  | unsupportedPixelFormat
  | invalidGeometry
  | storageFailure
deriving DecidableEq, Repr

/-- The codes of spec 60_exceptions R231; 1 and 4 never appear in `STATUS.ERRCODE`. -/
def ContainerError.code : ContainerError → BitVec 3
  | .unknownContainerFormat => 1
  | .unsupportedPixelFormat => 2
  | .invalidGeometry => 3
  | .storageFailure => 4

/-- The closed set of formats of an image (spec 48_host_container R205). -/
inductive ImageFormat where
  | etc1
  | etc2Rgb
  | etc2Rgba
  | dxt1
deriving DecidableEq, Repr

/-- The value of `FORMAT` for a format (spec 48_host_container R204, 10_state R22). -/
def formatCodeOf (c : FormatCode) : ImageFormat → BitVec 32
  | .etc1 => c.etc1
  | .etc2Rgb => c.etc2Rgb
  | .etc2Rgba => c.etc2Rgba
  | .dxt1 => c.dxt1

/-- A compressed image (spec 48_host_container R205). Who owns the bytes is left out with the storage (00_scope R7). -/
structure Container where
  format : ImageFormat
  width : BitVec 32
  height : BitVec 32
  dataOffset : Nat
  totalLength : Nat
deriving DecidableEq, Repr

/-! ### Opening -/

/-- The header word of index `n`, little-endian at byte offset `4n` (spec 48_host_container R200). -/
def headerWord (m : Memory) (buf n : Nat) : BitVec 32 :=
  Memory.load .src m (buf + 4 * n + 3) ++ Memory.load .src m (buf + 4 * n + 2) ++
    Memory.load .src m (buf + 4 * n + 1) ++ Memory.load .src m (buf + 4 * n)

/-- The format a PVR-style header names (spec 48_host_container R201); 7 is not accepted. -/
def pvrFormat (v : BitVec 32) : Option ImageFormat :=
  if v = 6 then some .etc1 else if v = 22 then some .etc2Rgb else if v = 23 then some .etc2Rgba else none

/-- The format a KTX-style header names (spec 48_host_container R202). -/
def ktxFormat (v : BitVec 32) : Option ImageFormat :=
  if v = 0x9274 then some .etc2Rgb else if v = 0x9278 then some .etc2Rgba else none

/-- Opening a container whose backing buffer of `totalLength` bytes starts at `buf` (spec 48_host_container R200 to R203).
Where the buffer is shorter than its header the spec does not say what opening does: reading the header words from memory
past the buffer's end is a DESIGN CHOICE (log 32). -/
def openContainer (m : Memory) (buf totalLength : Nat) : Except ContainerError Container :=
  if headerWord m buf 0 = 0x03525650 then
    match pvrFormat (headerWord m buf 2) with
    | some f => .ok { format := f, width := headerWord m buf 7, height := headerWord m buf 6
                      dataOffset := 52 + (headerWord m buf 12).toNat, totalLength := totalLength }
    | none => .error .unsupportedPixelFormat
  else if headerWord m buf 0 = 0x58544BAB then
    match ktxFormat (headerWord m buf 7) with
    | some f => .ok { format := f, width := headerWord m buf 9, height := headerWord m buf 10
                      dataOffset := 68 + (headerWord m buf 15).toNat, totalLength := totalLength }
    | none => .error .unsupportedPixelFormat
  else .error .unknownContainerFormat

/-- The register writes and the START of a `DECODE` of an opened container (spec 48_host_container R204). Where the header
puts the blocks past the end of the buffer (`dataOffset` above `totalLength`), the spec does not say what SRC_LEN is: 0
is a DESIGN CHOICE (log 30), with which every image of some tile is refused as `TruncatedSource`. -/
def decodeEvents (codes : FormatCode) (c : Container) (buf dst : Nat) : List HostEvent :=
  [.writeFormat (formatCodeOf codes c.format), .writeWidth c.width, .writeHeight c.height, .writeSrcBase (buf + c.dataOffset),
   .writeSrcLen (c.totalLength - c.dataOffset), .writeDstBase dst, .writeCtrl 1]

/-! ### The mip chain (spec 48_host_container R207) -/

/-- The dimensions of level `k`: each level halves the one before, rounding down, at least 1. -/
def levelDims (w h : Nat) : Nat → Nat × Nat
  | 0 => (w, h)
  | k + 1 => (max 1 ((levelDims w h k).1 / 2), max 1 ((levelDims w h k).2 / 2))

/-- The bytes of the tiles of an area given in pixels (spec 48_host_container R206): half a byte a pixel, doubled for
`Etc2_RGBA`. Where a level is odd in both directions (20x20 reaches 5x5, 12.5 bytes) the spec states no rounding: rounding
down before doubling is a DESIGN CHOICE (log 31). -/
def areaBytes (f : ImageFormat) (pixels : Nat) : Nat :=
  match f with
  | .etc2Rgba => 2 * (pixels / 2)
  | .etc1 => pixels / 2
  | .etc2Rgb => pixels / 2
  | .dxt1 => pixels / 2

/-- The bytes of level `k`. The base level has its own size (R206); every further level counts at least 4 in each
direction. For an image of zero width or height, R207's own sentence would count the base level so too; leaving it at
R206's size, 0, is a DESIGN CHOICE (log 31). -/
def levelBytes (f : ImageFormat) (w h : Nat) : Nat → Nat
  | 0 => areaBytes f (w * h)
  | k + 1 => areaBytes f (max 4 (levelDims w h (k + 1)).1 * max 4 (levelDims w h (k + 1)).2)

/-- Where level `k` starts: the levels lie one after another from `dataOffset` on. -/
def levelStart (f : ImageFormat) (w h dataOffset k : Nat) : Nat :=
  dataOffset + ((List.range k).map (levelBytes f w h)).sum

/-- The number of levels of a mip-enabled image (conflict C4). For an image of 0x0 pixels the spec gives the logarithm no
value: `Nat.log2 0` = 0 is a DESIGN CHOICE (log 31), with which the chain does not reach 1x1. -/
def mipCount (w h : Nat) : Nat := Nat.log2 (max w h) + 1

/-- The halving reaches 1x1 at the last level and not before it. -/
def reachesOne (w h : Nat) : Bool :=
  levelDims w h (mipCount w h - 1) = (1, 1) && (List.range (mipCount w h - 1)).all fun k => levelDims w h k ≠ (1, 1)

/-- The levels of an image: one without mipmaps. -/
def levelCount (w h : Nat) (mips : Bool) : Nat := if mips then mipCount w h else 1

/-- What R205 of 48_host_container says of every image: its size is a multiple of 4 in both directions, and the backing
buffer is the header and the blocks of all its levels, the base level alone or the whole mip chain (R207). The opening of
R200 to R203 has no step that checks it (log 26). -/
abbrev Container.valid (c : Container) : Prop :=
  c.width.toNat % 4 = 0 ∧ c.height.toNat % 4 = 0 ∧
    ∃ mips : Bool, (mips = true → reachesOne c.width.toNat c.height.toNat = true) ∧
      c.totalLength =
        levelStart c.format c.width.toNat c.height.toNat c.dataOffset (levelCount c.width.toNat c.height.toNat mips)

/-! ### Create-for-writing (spec 48_host_container R206) -/

/-- The pixel-format code the writer puts in the header. -/
def pvrCode : ImageFormat → BitVec 32
  | .etc1 => 6
  | .etc2Rgb => 22
  | .etc2Rgba => 23
  | .dxt1 => 7

/-- The bytes the writer allocates: the header and all levels. -/
def createLength (f : ImageFormat) (w h : Nat) (mips : Bool) : Nat := levelStart f w h 52 (levelCount w h mips)

/-- The mip level count in the header: a free value for an image without mipmaps (91 N14, log 26). -/
def headerMipCount (width height : BitVec 32) (mips : Bool) : BitVec 32 :=
  if mips then BitVec.ofNat 32 (mipCount width.toNat height.toNat) else Config.plainMipCount width height

/-- The thirteen header words the writer emits. -/
def writtenHeader (f : ImageFormat) (width height : BitVec 32) (mips : Bool) : List (BitVec 32) :=
  [0x03525650, 0, pvrCode f, 0, 0, 0, height, width, 1, 1, 1, headerMipCount width height mips, 0]

/-- A container made for writing: its length and its header. -/
structure Created where
  totalLength : Nat
  header : List (BitVec 32)
deriving DecidableEq, Repr

/-- Create-for-writing from size, mip flag and format. A size that is no multiple of 4, or a mip chain that does not end at
1x1, is `InvalidGeometry` (60_exceptions R231, 48_host_container R207). -/
def createContainer (f : ImageFormat) (width height : BitVec 32) (mips : Bool) : Except ContainerError Created :=
  if width.toNat % 4 ≠ 0 ∨ height.toNat % 4 ≠ 0 then .error .invalidGeometry
  else if mips && !reachesOne width.toNat height.toNat then .error .invalidGeometry
  else .ok { totalLength := createLength f width.toNat height.toNat mips, header := writtenHeader f width height mips }

end Sys2Proof.Machine
end

