-- ==== Sys2Proof/Safety.lean ====
section
/-! DEFINITION. What a safe run is: the launch premise (spec 70 R266), the invariants and the frames claims use, and the
image a command decodes. -/

namespace Sys2Proof.Machine

/-- The field positions are the ones the spec states (00_scope R14, log 16). -/
abbrev specLayouts (c : Config) : Prop :=
  c.layoutColorLo = specColorLayout ∧ c.layoutPlanar = specPlanarLayout ∧ c.layoutAlphaHdr = specAlphaLayout

/-- No host event but `run` is pending: nobody but the decoder acts. Stricter than premise `P-excl` (`State.exclusive`):
claims that count steps take it, since a host event takes a step of its own. -/
abbrev State.hostQuiet (s : State) : Prop := ∀ e ∈ s.host, e = HostEvent.run

/-- Premise `P-written` (spec 70 R266). -/
abbrev State.allWritten (s : State) : Prop :=
  s.written.format = true ∧ s.written.width = true ∧ s.written.height = true ∧ s.written.srcBase = true ∧
    s.written.srcLen = true ∧ s.written.dstBase = true

/-- Premises `P-src`, `P-dst` and `P-range` (spec 70 R266) on the address space of `ADDR_BITS`: the source bytes, all
`SRC_LEN` bytes the host declared, and the raster exist. -/
abbrev State.regionsExist (s : State) : Prop :=
  s.srcBase + recBytes s * tiles s ≤ 2 ^ s.cfg.addrBits ∧ s.srcBase + s.srcLen ≤ 2 ^ s.cfg.addrBits ∧
    s.dstBase + rasterPixels s ≤ 2 ^ s.cfg.addrBits

/-- What the host may do during a command (spec 70 R266 premise `P-excl`: R270, R271, R272; and R273, which 93 U7 counts to
it): nothing, a write of CTRL, which is ignored, and accesses to bytes of SRC and pixels of DST that exist and that the
command does not own. A reset abandons the command (R261), so no claim about one allows it. -/
def HostEvent.harmless (s : State) : HostEvent → Prop
  | .run => True
  | .writeCtrl _ => True
  | .writeSrc a _ => a < 2 ^ s.cfg.addrBits ∧ ¬ inSource s a
  | .writeDst p _ => p < 2 ^ s.cfg.addrBits ∧ ¬ inRaster s p
  | .readDst p => p < 2 ^ s.cfg.addrBits ∧ ¬ inRaster s p
  | .writeFormat _ => False
  | .writeWidth _ => False
  | .writeHeight _ => False
  | .writeSrcBase _ => False
  | .writeSrcLen _ => False
  | .writeDstBase _ => False
  | .reset => False

/-- The three launch checks pass (spec 45_sequencer R181). -/
abbrev State.launchLegal (s : State) : Prop :=
  formatLegal s ∧ geometryLegal s ∧ recBytes s * tiles s ≤ s.srcLen

/-- The word steps a command of the given state takes: one per tile, two for `Etc2_RGBA` (spec 45_sequencer R187, R190). -/
def State.wordSteps (s : State) : Nat := if hasAlpha s then 2 * tiles s else tiles s

/-- The events of a queue that a command of `n` word steps takes: each `run` is one of its steps, and where the queue ends
the decoder goes on alone. -/
def eventsDuring : Nat → List HostEvent → List HostEvent
  | 0, _ => []
  | _ + 1, [] => []
  | n + 1, .run :: es => .run :: eventsDuring n es
  | n + 1, e :: es => e :: eventsDuring (n + 1) es

/-- Premise `P-excl` (spec 70 R266) of a START written in `s`, whose queue holds the host's events after it: what the host
does from START to DONE is harmless. What it does after DONE is free, and a refused command ends at once. -/
abbrev State.exclusive (s : State) : Prop :=
  ∀ e ∈ eventsDuring (if s.launchLegal then s.wordSteps else 0) s.host, e.harmless s

/-- The launch premise (spec 70 R266). `P-disjoint` holds of every state: SRC and DST are two memories (log 25). -/
abbrev State.launchPremise (s : State) : Prop :=
  s.allWritten ∧ s.status.busy = false ∧ s.regionsExist ∧ s.exclusive

/-- Both memories are in canonical form. -/
abbrev State.memoryWf (s : State) : Prop := Memory.wf s.src = true ∧ Memory.wf s.dst = true

/-- A byte of DST outside the tile the cursor stands at: no position of the tile is its pixel. -/
def outsideTile (s : State) (a : Nat) : Prop := ∀ x y, x < 4 → y < 4 → a / 4 ≠ tilePixel s x y

/-- Exactly one of idle, busy, done, refused (spec 10_state R28), with the codes R231 of 60_exceptions allows. -/
abbrev Status.legal (st : Status) : Prop :=
  st = Status.idle ∨ st = Status.running ∨ st = Status.completed ∨ ∃ e, st = Status.refusedWith e

/-- The closed form of the cursor at the start of a tile (spec 45_sequencer R191). -/
abbrev State.cursorClosed (s : State) : Prop :=
  s.cur.srcPtr = s.srcBase + recBytes s * (s.cur.ty * (s.width.toNat / 4) + s.cur.tx) ∧
    s.cur.dstPtr = s.dstBase + 4 * s.cur.ty * s.width.toNat + 4 * s.cur.tx

/-- What holds of a running command: it passed the launch checks, its cursor stands at one of its tiles, and an alpha
word is pending only in an `Etc2_RGBA` record (spec 45_sequencer R181, R187, R191). -/
abbrev State.commandInv (s : State) : Prop :=
  (s.status.busy = true →
    s.launchLegal ∧ s.cur.tx < s.width.toNat / 4 ∧ s.cur.ty < s.height.toNat / 4 ∧ s.cursorClosed) ∧
  (s.phase = .alpha → s.status.busy = true ∧ hasAlpha s)

/-- What holds of the marks of interference: only a running command is interfered with, and a register has a later value
only while one is (log 13, 14). -/
abbrev State.interferenceInv (s : State) : Prop :=
  (s.status.busy = false → s.interfered = false) ∧ (s.interfered = false → s.later = Later.none)

/-- Every register of the machine, its SRC and the model's own fields apart from the working values and the free-value
counter are the same in both states. -/
abbrev sameRegisters (s t : State) : Prop :=
  t.cfg = s.cfg ∧ t.format = s.format ∧ t.width = s.width ∧ t.height = s.height ∧ t.srcBase = s.srcBase ∧
    t.srcLen = s.srcLen ∧ t.dstBase = s.dstBase ∧ t.written = s.written ∧ t.later = s.later ∧ t.status = s.status ∧
    t.cur = s.cur ∧ t.phase = s.phase ∧ t.src = s.src ∧ t.interfered = s.interfered ∧ t.host = s.host

/-- The frame of a word operation: the registers and SRC unchanged, and every byte of DST outside the tile. -/
abbrev wordFrame (s t : State) : Prop :=
  sameRegisters s t ∧ ∀ a, outsideTile s a → Memory.load .dst t.dst a = Memory.load .dst s.dst a

/-- The configuration registers and the record of their writes, during the command too, are the same in both states. -/
abbrev sameConfig (s t : State) : Prop :=
  t.cfg = s.cfg ∧ t.format = s.format ∧ t.width = s.width ∧ t.height = s.height ∧ t.srcBase = s.srcBase ∧
    t.srcLen = s.srcLen ∧ t.dstBase = s.dstBase ∧ t.written = s.written ∧ t.later = s.later

/-- The colour channels of ordinal `k` that the word leaves open: red or green of sub-block 1 where that channel of base-1
is out of range (spec 41_color_endpoints R130). -/
def openChannels (cfg : Config) (i : Instr) (k : Nat) : Rgb Bool :=
  match i with
  | .cwIndiv _ => noneOpen
  | .cwPlanar _ => noneOpen
  | .cwDiff f => (diffOpen f).map
      (· && decide (subBlock f.flip (colOf cfg.pixelOrder k) (rowOf cfg.pixelOrder k) ≠ 0))
  | .awAlpha _ => noneOpen
  | .decode => noneOpen

/-- The pixel `v` has the colour bytes of `p` in every channel that is not open. -/
abbrev sameColor (isOpen : Rgb Bool) (v p : Pixel) : Prop :=
  (isOpen.r = false → v.extractLsb' 0 8 = p.extractLsb' 0 8) ∧
    (isOpen.g = false → v.extractLsb' 8 8 = p.extractLsb' 8 8) ∧
    (isOpen.b = false → v.extractLsb' 16 8 = p.extractLsb' 16 8)

/-- The pixel a colour word gives ordinal `k`, its open channels apart (`openChannels`): there it is a function of the word
and the parameters alone (spec 42_color_pixels R147, 70 R275). -/
def wordPixel (cfg : Config) (i : Instr) (k : Nat) : Pixel :=
  match i with
  | .cwIndiv f => colorPixel cfg (indivWork cfg f Work.initial) noneOpen 0 k
  | .cwPlanar f => planarPixel cfg (planarWork f Work.initial) (colOf cfg.pixelOrder k) (rowOf cfg.pixelOrder k)
  | .cwDiff f => colorPixel cfg (diffWork cfg 0 f Work.initial) noneOpen 0 k
  | .awAlpha _ => 0
  | .decode => 0

/-- The alpha an alpha word gives ordinal `k` (spec 44_alpha R171, R172). -/
def alphaOf (cfg : Config) (f : AlphaWord) (k : Nat) : Byte := alphaValue cfg f.base f.mul f.tbl (selector f.sels k)

/-- The colour word of tile (`tx`, `ty`), normalized, as SRC holds it (spec 45_sequencer R187, R191, 30_encoding R81). -/
def tileColorWord (s : State) (tx ty : Nat) : CodedWord :=
  normC (storedWord s.cfg.wordLoadOrder s.src (s.srcBase + recBytes s * (ty * (s.width.toNat / 4) + tx) +
    if hasAlpha s then 8 else 0))

/-- The alpha word of tile (`tx`, `ty`) of an `Etc2_RGBA` image, normalized, as SRC holds it. -/
def tileAlphaWord (s : State) (tx ty : Nat) : CodedWord :=
  normA (storedWord s.cfg.wordLoadOrder s.src (s.srcBase + recBytes s * (ty * (s.width.toNat / 4) + tx)))

/-- The DST index of the pixel at column `x`, row `y` of tile (`tx`, `ty`) (spec 45_sequencer R191). -/
def rasterPixel (s : State) (tx ty x y : Nat) : Nat := s.dstBase + (4 * ty + y) * s.width.toNat + 4 * tx + x

end Sys2Proof.Machine
end

