-- ==== Sys2Proof/Certificates/Slice0/Obligations.lean ====
section
/-! DEFINITION. The statements for the provers. Every statement quantifies over the parameters a machine carries in `cfg`
(tables, layouts, `PIXEL_ORDER`, `FORMAT_CODE` and the rest); where one rests on a value, it names it as a premise. The
layouts and tables of the spec (`specLayouts`) are the ones it marks as supplied from general knowledge (log 16). -/

open Sys2Proof Sys2Proof.Machine

/-! ### Words and instructions -/

/-- Every well-formed instruction, every field at every value, is read back from its stored bytes in the spec's layouts
(30_encoding R83, R84, R86, R87; log 16; the four bytes of the command are the model's, log 24). -/
def Obligations.DecodeEncodeRoundTrip : Prop :=
  ∀ (cfg : Config) (i : Instr) (rest : List Byte), specLayouts cfg → i.WellFormed →
    decodeBytes cfg i.kind (encode i ++ rest) = .ok (i, rest)

/-- Every normalized colour word selects one well-formed colour operation, every alpha word `AW.ALPHA`, and no bit of
either is lost (30_encoding R91), in the spec's layouts (log 16). -/
def Obligations.EveryWordIsOneInstruction : Prop :=
  ∀ (cfg : Config) (n : CodedWord), specLayouts cfg →
    ((decodeColor cfg n).WellFormed ∧ (decodeColor cfg n).kind = .color ∧
      encode (decodeColor cfg n) = storeWord (normC n)) ∧
    ((decodeAlpha cfg n).WellFormed ∧ (decodeAlpha cfg n).kind = .alpha ∧
      encode (decodeAlpha cfg n) = storeWord (normA n))

/-- Stored words of the spec's own examples decode to the fields the spec lists for them (95 V20, V24, V30, V41). -/
def Obligations.ExampleWordsDecode : Prop :=
  decodeBytes specConfig .color [0x1F, 0x2E, 0x3D, 0x7C, 0xCC, 0xCC, 0xAA, 0xAA] =
    .ok (.cwIndiv ⟨⟨1, 2, 3⟩, ⟨15, 14, 13⟩, 3, 7, 0, 0xAAAA, 0xCCCC⟩, []) ∧
  decodeBytes specConfig .color [0x83, 0x44, 0x27, 0x56, 0xF0, 0x3C, 0xCC, 0x5A] =
    .ok (.cwDiff ⟨⟨16, 8, 4⟩, ⟨3, 4, 7⟩, 2, 5, 0, 0xCC5A, 0xF03C⟩, []) ∧
  decodeBytes specConfig .color [0x14, 0x28, 0xFB, 0x7F, 0xC8, 0x28, 0x1F, 0xE8] =
    .ok (.cwPlanar ⟨⟨10, 20, 30⟩, ⟨63, 100, 5⟩, ⟨0, 127, 40⟩, 0, 0, 7, 0⟩, []) ∧
  decodeBytes specConfig .alpha [0x80, 0x3D, 0x05, 0x39, 0x77, 0x05, 0x39, 0x77] =
    .ok (.awAlpha ⟨128, 3, 13, 0x053977053977⟩, []) ∧
  decodeBytes specConfig .command [1, 0, 0, 0] = .ok (.decode, [])

/-- The opcode map (30_encoding R89) in the spec's colour layout (log 16): `N[1]` = 0 is individual; planar is exactly
`N[1]` = 1 with one of sixteen values of `N[15:8]`; every other word is differential. -/
def Obligations.PlanarSelectedBySixteenPatterns : Prop :=
  ∀ (cfg : Config) (n : CodedWord), cfg.layoutColorLo = specColorLayout →
    (dispatchMode cfg.layoutColorLo n = .individual ↔ n.getLsbD 1 = false) ∧
    (dispatchMode cfg.layoutColorLo n = .planar ↔ n.getLsbD 1 = true ∧ n.extractLsb' 8 8 ∈
      ([0x04, 0x05, 0x06, 0x07, 0x0C, 0x0D, 0x0E, 0x14, 0x15, 0x1C, 0xEB, 0xF2, 0xF3, 0xF9, 0xFA, 0xFB] : List Byte)) ∧
    (decodeColor cfg n = .cwIndiv (indivFields cfg.layoutColorLo n) ↔ dispatchMode cfg.layoutColorLo n = .individual) ∧
    (decodeColor cfg n = .cwPlanar (planarFields cfg.layoutPlanar n) ↔ dispatchMode cfg.layoutColorLo n = .planar) ∧
    (decodeColor cfg n = .cwDiff (diffFields cfg.layoutColorLo n) ↔ dispatchMode cfg.layoutColorLo n = .differential)

/-- The net byte placement (20_memory R55) and the exchange of halves (40_normalize R113). -/
def Obligations.NetBytePlacement : Prop :=
  ∀ b0 b1 b2 b3 b4 b5 b6 b7 : Byte,
    normC (loadWord b0 b1 b2 b3 b4 b5 b6 b7) = b4 ++ b5 ++ b6 ++ b7 ++ b0 ++ b1 ++ b2 ++ b3 ∧
    normA (loadWord b0 b1 b2 b3 b4 b5 b6 b7) = b0 ++ b1 ++ b2 ++ b3 ++ b4 ++ b5 ++ b6 ++ b7

/-- The four expanders as arithmetic on the field (41_color_endpoints R124 to R127). -/
def Obligations.ExpandersAsArithmetic : Prop :=
  (∀ v : BitVec 4, (exp4 v).toNat = 17 * v.toNat) ∧
  (∀ v : BitVec 5, (exp5 v).toNat = 8 * v.toNat + v.toNat / 4) ∧
  (∀ v : BitVec 6, (exp6 v).toNat = 4 * v.toNat + v.toNat / 16) ∧
  (∀ v : BitVec 7, (exp7 v).toNat = 2 * v.toNat + v.toNat / 64)

/-- The index interleave (42_color_pixels R141) with the high bit from the upper half: bit `2k` of `IDX` is `IL[k]`, bit
`2k+1` is `IH[k]`, and the pixel index of ordinal `k` is `IH[k]` above `IL[k]`. -/
def Obligations.IndexInterleave : Prop :=
  ∀ (il ih : BitVec 16) (k : Nat), k < 16 →
    (spread16 il).getLsbD (2 * k) = il.getLsbD k ∧ (spread16 il).getLsbD (2 * k + 1) = false ∧
    (indexField .upper il ih).getLsbD (2 * k) = il.getLsbD k ∧
    (indexField .upper il ih).getLsbD (2 * k + 1) = ih.getLsbD k ∧
    pixelIndex (indexField .upper il ih) k = ih.extractLsb' k 1 ++ il.extractLsb' k 1

/-! ### Word operations -/

/-- `CW.INDIV` completes wherever its tile exists: the base colours are `EXP4` of the fields, each pixel is the clamped
sum of its sub-block's base and modifier with alpha 255 (41 R128; 42 R140, R142 to R145), and nothing else changes. The
pixels are named for a stride of at least 4: a running command has no other (StepKeepsCommandInvariant: WIDTH is a
multiple of 4 and its tile exists). Which half holds the high bit of an index is the parameter `INDEX_MSB_HALF`. -/
def Obligations.CwIndivCompletes : Prop :=
  ∀ (f : IndivWord) (s : State), tileInRange s →
    ∃ t, exec (.cwIndiv f) s = .next t ∧ wordFrame s t ∧ t.freeNext = s.freeNext ∧
      (∃ idx, t.work = { s.work with
        flip := f.flip, diff := 0, mode := .individual
        c0 := ⟨f.c0.r.toNat, f.c0.g.toNat, f.c0.b.toNat⟩, c1 := ⟨f.c1.r.toNat, f.c1.g.toNat, f.c1.b.toNat⟩
        base0 := ⟨exp4 f.c0.r, exp4 f.c0.g, exp4 f.c0.b⟩, base1 := ⟨exp4 f.c1.r, exp4 f.c1.g, exp4 f.c1.b⟩
        tcw0 := f.t0, tcw1 := f.t1, idx := idx }) ∧
      (4 ≤ s.width.toNat → ∀ k, k < 16 →
        let x := colOf s.cfg.pixelOrder k
        let y := rowOf s.cfg.pixelOrder k
        let sub := if f.flip = 0 then x / 2 else y / 2
        let c := if sub = 0 then f.c0 else f.c1
        let m := colorMod s.cfg (if sub = 0 then f.t0 else f.t1)
          (if s.cfg.indexMsbHalf = .upper then f.ih.extractLsb' k 1 ++ f.il.extractLsb' k 1
            else f.il.extractLsb' k 1 ++ f.ih.extractLsb' k 1)
        readPixel t.dst (s.cur.dstPtr + y * s.width.toNat + x) =
          pack s.cfg.pixelLayout (clamp8 (17 * c.r.toNat + m)) (clamp8 (17 * c.g.toNat + m))
            (clamp8 (17 * c.b.toNat + m)) 255)

/-- `CW.DIFF` completes wherever its tile exists, whatever its red and green sums are (41 R129, R130): the delta is added
to the 5-bit value and the sum expanded; every channel of sub-block 0, every in-range channel of sub-block 1 and the
alpha of every pixel have the specified value, and nothing else changes. Of an out-of-range channel of sub-block 1
nothing is said: it is a free value. A running command's stride is at least 4 (StepKeepsCommandInvariant). -/
def Obligations.CwDiffCompletes : Prop :=
  ∀ (f : DiffWord) (s : State), tileInRange s →
    ∃ t, exec (.cwDiff f) s = .next t ∧ wordFrame s t ∧
      (4 ≤ s.width.toNat → ∀ k, k < 16 →
        let x := colOf s.cfg.pixelOrder k
        let y := rowOf s.cfg.pixelOrder k
        let sub := if f.flip = 0 then x / 2 else y / 2
        let m := colorMod s.cfg (if sub = 0 then f.t0 else f.t1)
          (if s.cfg.indexMsbHalf = .upper then f.ih.extractLsb' k 1 ++ f.il.extractLsb' k 1
            else f.il.extractLsb' k 1 ++ f.ih.extractLsb' k 1)
        let v := readPixel t.dst (s.cur.dstPtr + y * s.width.toNat + x)
        let specified := fun (byte : Byte) (c : BitVec 5) (d : BitVec 3) =>
          (sub = 0 → byte = clamp8 (8 * c.toNat + c.toNat / 4 + m)) ∧
          (sub ≠ 0 → 0 ≤ (c.toNat : Int) + d.toInt → (c.toNat : Int) + d.toInt ≤ 31 →
            byte = clamp8 (8 * ((c.toNat : Int) + d.toInt) + ((c.toNat : Int) + d.toInt) / 4 + m))
        specified (v.extractLsb' 0 8) f.c0.r f.d.r ∧ specified (v.extractLsb' 8 8) f.c0.g f.d.g ∧
          specified (v.extractLsb' 16 8) f.c0.b f.d.b ∧ v.extractLsb' 24 8 = 255)

/-- The working values `CW.DIFF` writes (41 R120, R121, R129; 42 R140): `C1` is `C0` plus the signed delta, `BASE[0]` is
`EXP5` of `C0`, `BASE[1]` is `EXP5` of `C1` in each channel where `C1` is in range; no other working value changes but
`IDX`, and free values are drawn only where a channel is out of range. -/
def Obligations.CwDiffWorkingValues : Prop :=
  ∀ (f : DiffWord) (s t : State), exec (.cwDiff f) s = .next t →
    (∃ idx b1, t.work = { s.work with
      flip := f.flip, diff := 1, mode := .differential
      c0 := ⟨f.c0.r.toNat, f.c0.g.toNat, f.c0.b.toNat⟩
      d := ⟨f.d.r.toInt, f.d.g.toInt, f.d.b.toInt⟩
      c1 := ⟨f.c0.r.toNat + f.d.r.toInt, f.c0.g.toNat + f.d.g.toInt, f.c0.b.toNat + f.d.b.toInt⟩
      base0 := ⟨exp5 f.c0.r, exp5 f.c0.g, exp5 f.c0.b⟩, base1 := b1
      tcw0 := f.t0, tcw1 := f.t1, idx := idx } ∧
      (0 ≤ t.work.c1.r ∧ t.work.c1.r ≤ 31 → b1.r = exp5 (BitVec.ofInt 5 t.work.c1.r)) ∧
      (0 ≤ t.work.c1.g ∧ t.work.c1.g ≤ 31 → b1.g = exp5 (BitVec.ofInt 5 t.work.c1.g)) ∧
      (0 ≤ t.work.c1.b ∧ t.work.c1.b ≤ 31 → b1.b = exp5 (BitVec.ofInt 5 t.work.c1.b))) ∧
    s.freeNext ≤ t.freeNext ∧
    (0 ≤ t.work.c1.r ∧ t.work.c1.r ≤ 31 → 0 ≤ t.work.c1.g ∧ t.work.c1.g ≤ 31 →
      0 ≤ t.work.c1.b ∧ t.work.c1.b ≤ 31 → t.freeNext = s.freeNext)

/-- The working values of the word operations, read off the bits of the normalized word: flags and mode (41 R120), base
colours (R128, R129), table codes and index field (42 R140, R141), control points (43 R160, R161), alpha header (44 R170), at the positions of the spec's layouts (log 16). -/
def Obligations.WorkingValuesFromWord : Prop :=
  ∀ (n : CodedWord) (s t : State), specLayouts s.cfg →
    (exec (decodeColor s.cfg n) s = .next t →
      t.work.flip = n.extractLsb' 0 1 ∧ t.work.diff = n.extractLsb' 1 1 ∧ t.work.mode = dispatchMode s.cfg.layoutColorLo n ∧
      (dispatchMode s.cfg.layoutColorLo n = .individual →
        t.work.c0 = ⟨(n.extractLsb' 28 4).toNat, (n.extractLsb' 20 4).toNat, (n.extractLsb' 12 4).toNat⟩ ∧
        t.work.c1 = ⟨(n.extractLsb' 24 4).toNat, (n.extractLsb' 16 4).toNat, (n.extractLsb' 8 4).toNat⟩ ∧
        t.work.base0 = ⟨exp4 (n.extractLsb' 28 4), exp4 (n.extractLsb' 20 4), exp4 (n.extractLsb' 12 4)⟩ ∧
        t.work.base1 = ⟨exp4 (n.extractLsb' 24 4), exp4 (n.extractLsb' 16 4), exp4 (n.extractLsb' 8 4)⟩) ∧
      (dispatchMode s.cfg.layoutColorLo n = .differential →
        t.work.c0 = ⟨(n.extractLsb' 27 5).toNat, (n.extractLsb' 19 5).toNat, (n.extractLsb' 11 5).toNat⟩ ∧
        t.work.d = ⟨(n.extractLsb' 24 3).toInt, (n.extractLsb' 16 3).toInt, (n.extractLsb' 8 3).toInt⟩ ∧
        t.work.c1 = ⟨t.work.c0.r + t.work.d.r, t.work.c0.g + t.work.d.g, t.work.c0.b + t.work.d.b⟩ ∧
        t.work.base0 = ⟨exp5 (n.extractLsb' 27 5), exp5 (n.extractLsb' 19 5), exp5 (n.extractLsb' 11 5)⟩ ∧
        (0 ≤ t.work.c1.r ∧ t.work.c1.r ≤ 31 → t.work.base1.r = exp5 (BitVec.ofInt 5 t.work.c1.r)) ∧
        (0 ≤ t.work.c1.g ∧ t.work.c1.g ≤ 31 → t.work.base1.g = exp5 (BitVec.ofInt 5 t.work.c1.g)) ∧
        (0 ≤ t.work.c1.b ∧ t.work.c1.b ≤ 31) ∧ t.work.base1.b = exp5 (BitVec.ofInt 5 t.work.c1.b)) ∧
      (dispatchMode s.cfg.layoutColorLo n ≠ .planar →
        t.work.tcw0 = n.extractLsb' 5 3 ∧ t.work.tcw1 = n.extractLsb' 2 3 ∧
        t.work.idx = indexField s.cfg.indexMsbHalf (n.extractLsb' 32 16) (n.extractLsb' 48 16)) ∧
      (dispatchMode s.cfg.layoutColorLo n = .planar →
        t.work.fo = ⟨n.extractLsb' 25 6, n.extractLsb' 24 1 ++ n.extractLsb' 17 6,
          n.extractLsb' 16 1 ++ n.extractLsb' 11 2 ++ n.extractLsb' 7 3⟩ ∧
        t.work.fh = ⟨n.extractLsb' 2 5 ++ n.extractLsb' 0 1, n.extractLsb' 57 7, n.extractLsb' 51 6⟩ ∧
        t.work.fv = ⟨n.extractLsb' 45 6, n.extractLsb' 38 7, n.extractLsb' 32 6⟩ ∧
        t.work.po = ⟨exp6 t.work.fo.r, exp7 t.work.fo.g, exp6 t.work.fo.b⟩ ∧
        t.work.ph = ⟨exp6 t.work.fh.r, exp7 t.work.fh.g, exp6 t.work.fh.b⟩ ∧
        t.work.pv = ⟨exp6 t.work.fv.r, exp7 t.work.fv.g, exp6 t.work.fv.b⟩)) ∧
    (exec (decodeAlpha s.cfg n) s = .next t →
      t.work.abase = n.extractLsb' 56 8 ∧ t.work.amul = n.extractLsb' 52 4 ∧ t.work.atbl = n.extractLsb' 48 4)

/-- `CW.PLANAR` completes wherever its tile exists: the control points are expanded, each pixel interpolates them at its
real column and row, channel by channel, with alpha 255 (43 R161, R163, R164), and nothing else changes; the six
unused bits and `PIXEL_ORDER` play no part. -/
def Obligations.CwPlanarCompletes : Prop :=
  ∀ (f : PlanarWord) (s : State), tileInRange s →
    ∃ t, exec (.cwPlanar f) s = .next t ∧ wordFrame s t ∧ t.freeNext = s.freeNext ∧
      t.work = { s.work with
        flip := f.h.r.extractLsb' 0 1, diff := 1, mode := .planar, fo := f.o, fh := f.h, fv := f.v
        po := ⟨exp6 f.o.r, exp7 f.o.g, exp6 f.o.b⟩, ph := ⟨exp6 f.h.r, exp7 f.h.g, exp6 f.h.b⟩
        pv := ⟨exp6 f.v.r, exp7 f.v.g, exp6 f.v.b⟩ } ∧
      (4 ≤ s.width.toNat → ∀ i j, i < 4 → j < 4 →
        let ramp := fun (o h v : Byte) =>
          clamp8 ((((i * h.toNat + j * v.toNat + 4 * o.toNat + 2 : Nat) : Int) - ((i + j) * o.toNat : Nat)) / 4)
        readPixel t.dst (s.cur.dstPtr + j * s.width.toNat + i) =
          pack s.cfg.pixelLayout (ramp (exp6 f.o.r) (exp6 f.h.r) (exp6 f.v.r))
            (ramp (exp7 f.o.g) (exp7 f.h.g) (exp7 f.v.g)) (ramp (exp6 f.o.b) (exp6 f.h.b) (exp6 f.v.b)) 255)

/-- `AW.ALPHA` completes wherever its tile exists: each pixel keeps its three colour bytes and gets the clamped sum of
the base and its selector's modifier times the multiplier (44 R170 to R173), and nothing else changes. -/
def Obligations.AwAlphaCompletes : Prop :=
  ∀ (f : AlphaWord) (s : State), tileInRange s →
    ∃ t, exec (.awAlpha f) s = .next t ∧ wordFrame s t ∧ t.freeNext = s.freeNext ∧
      t.work = { s.work with abase := f.base, amul := f.mul, atbl := f.tbl } ∧
      (4 ≤ s.width.toNat → ∀ p, p < 16 →
        let q := s.cur.dstPtr + rowOf s.cfg.pixelOrder p * s.width.toNat + colOf s.cfg.pixelOrder p
        let sel : BitVec 3 := (f.sels >>> (45 - 3 * p)).setWidth 3
        (readPixel t.dst q).extractLsb' 0 24 = (readPixel s.dst q).extractLsb' 0 24 ∧
        (readPixel t.dst q).extractLsb' 24 8 = clamp8 (f.base.toNat + alphaMod s.cfg f.tbl sel * f.mul.toNat))

/-- The document's property (44 R172): base 255 with multiplier 0 gives alpha 255 in all sixteen pixels whatever the
table, its entries and the selectors are, and leaves the colour bytes as they were. -/
def Obligations.AlphaMultiplierZero : Prop :=
  ∀ (tbl : BitVec 4) (sels : BitVec 48) (s : State), tileInRange s → 4 ≤ s.width.toNat →
    ∃ t, exec (.awAlpha ⟨255, 0, tbl, sels⟩) s = .next t ∧
      ∀ x y, x < 4 → y < 4 →
        readPixel t.dst (tilePixel s x y) = 255#8 ++ (readPixel s.dst (tilePixel s x y)).extractLsb' 0 24

/-- The frame of the four word operations `CW.INDIV`, `CW.PLANAR`, `CW.DIFF`, `AW.ALPHA`: registers, flags, cursor and
SRC unchanged, every byte of DST outside the tile unchanged, for a tile of any stride. -/
def Obligations.WordOperationFrame : Prop :=
  ∀ (i : Instr) (s t : State), i.kind ≠ .command → exec i s = .next t →
    wordFrame s t ∧ (Memory.wf s.dst = true → Memory.wf t.dst = true)

/-- A word operation stops in one case only: a pixel of its tile lies outside the `ADDR_BITS` index space
(60 R230, R244; which bound is the model's, log 9, 10). -/
def Obligations.WordOperationStopsOnlyOutOfRange : Prop :=
  ∀ (i : Instr) (s : State), i.kind ≠ .command →
    ((∃ t, exec i s = .next t) ↔ s.cur.dstPtr + 3 * s.width.toNat + 3 < 2 ^ s.cfg.addrBits) ∧
    (¬ s.cur.dstPtr + 3 * s.width.toNat + 3 < 2 ^ s.cfg.addrBits → exec i s = .fault .dstOutOfRange)

/-- No colour operation depends on what DST held (42 R145, 45 R194): two runs from states that differ in DST alone agree on
every pixel of the tile. Of the bytes 41 R130 (c) leaves open the rules do not say so; that they agree too is the
model's choice (log 6: a free byte is a function of the draw counter, which both states share). -/
def Obligations.ColorIgnoresPriorRaster : Prop :=
  ∀ (i : Instr) (s : State) (m : Memory), i.kind = .color → tileInRange s → 4 ≤ s.width.toNat →
    ∃ t t', exec i s = .next t ∧ exec i { s with dst := m } = .next t' ∧
      ∀ x y, x < 4 → y < 4 → readPixel t.dst (tilePixel s x y) = readPixel t'.dst (tilePixel s x y)

/-! ### The command -/

/-- `DECODE` accepted (45 R181): the flags become BUSY alone and the cursor stands at the first tile, its colour word
next; nothing else changes. Where a register was not written since reset (93 U3) the launch is the model's choice
(log 4). -/
def Obligations.DecodeAccepted : Prop :=
  ∀ s : State, s.status.busy = false →
    (s.format = s.cfg.formatCode.etc1 ∨ (s.format = s.cfg.formatCode.dxt1 ∧ s.cfg.dxt1Policy = .literal) ∨
      s.format = s.cfg.formatCode.etc2Rgb ∨ s.format = s.cfg.formatCode.etc2Rgba) →
    s.width.toNat % 4 = 0 → s.height.toNat % 4 = 0 → s.width ≠ 0 → s.height ≠ 0 →
    (if s.format = s.cfg.formatCode.etc2Rgba then 16 else 8) * ((s.width.toNat / 4) * (s.height.toNat / 4)) ≤ s.srcLen →
    exec .decode s = .next { s with
      status := { busy := true, done := false, err := false, errcode := 0 }
      cur := { srcPtr := s.srcBase, dstPtr := s.dstBase, tx := 0, ty := 0 }
      phase := .color
      interfered := false }

/-- The three refusals of `DECODE` in their order of priority (45 R181, 60 R237), under either `DXT1_POLICY` (93 U2): only
`STATUS` changes. Where a register was not written since reset (93 U3) the refusal is the model's choice (log 4). -/
def Obligations.DecodeRefusedInOrder : Prop :=
  ∀ s : State, s.status.busy = false →
    let known := s.format = s.cfg.formatCode.etc1 ∨ (s.format = s.cfg.formatCode.dxt1 ∧ s.cfg.dxt1Policy = .literal) ∨
      s.format = s.cfg.formatCode.etc2Rgb ∨ s.format = s.cfg.formatCode.etc2Rgba
    let granular := s.width.toNat % 4 = 0 ∧ s.height.toNat % 4 = 0
    let needed := (if s.format = s.cfg.formatCode.etc2Rgba then 16 else 8) *
      ((s.width.toNat / 4) * (s.height.toNat / 4))
    let refusedWith := fun (code : BitVec 3) =>
      exec .decode s = .next { s with status := { busy := false, done := false, err := true, errcode := code } }
    (¬ known → refusedWith 2) ∧ (known → ¬ granular → refusedWith 3) ∧
      (known → granular → s.srcLen < needed → refusedWith 5)

/-- `DXT1_POLICY` = `Refuse` (93 U2): the format code of `Dxt1`, a code of its own, is refused as an unsupported pixel
format. Where a register was not written since reset (93 U3) the refusal is the model's choice (log 4). -/
def Obligations.Dxt1RefusedUnderPolicy : Prop :=
  ∀ s : State, s.status.busy = false → s.cfg.dxt1Policy = .refuse → s.format = s.cfg.formatCode.dxt1 →
    s.cfg.formatCode.dxt1 ≠ s.cfg.formatCode.etc1 → s.cfg.formatCode.dxt1 ≠ s.cfg.formatCode.etc2Rgb →
    s.cfg.formatCode.dxt1 ≠ s.cfg.formatCode.etc2Rgba →
    exec .decode s = .next { s with status := { busy := false, done := false, err := true, errcode := 2 } }

/-- An image of no tiles (45 R192): no access, straight to DONE. Where a register was not written since reset (93 U3) the
launch is the model's choice (log 4). -/
def Obligations.DecodeEmptyImage : Prop :=
  ∀ s : State, s.status.busy = false →
    (s.format = s.cfg.formatCode.etc1 ∨ (s.format = s.cfg.formatCode.dxt1 ∧ s.cfg.dxt1Policy = .literal) ∨
      s.format = s.cfg.formatCode.etc2Rgb ∨ s.format = s.cfg.formatCode.etc2Rgba) →
    s.width.toNat % 4 = 0 → s.height.toNat % 4 = 0 → (s.width = 0 ∨ s.height = 0) →
    ∃ t, exec .decode s = .next t ∧ t.status = { busy := false, done := true, err := false, errcode := 0 } ∧
      t.src = s.src ∧ t.dst = s.dst ∧ sameConfig s t

/-- The frame of `DECODE`: configuration, both memories, the working values and the host's queue are unchanged, whether
it is accepted, refused or ignored. -/
def Obligations.DecodeFrame : Prop :=
  ∀ s t : State, exec .decode s = .next t →
    sameConfig s t ∧ t.src = s.src ∧ t.dst = s.dst ∧ t.work = s.work ∧ t.host = s.host ∧ t.freeNext = s.freeNext ∧
      (s.status.busy = true → t = s)

/-- `FORMAT` = `Dxt1` under the literal policy runs as `Etc1` does (45 R186): every step of the decoder and every launch
commutes with the change of the code, where the two codes differ from that of `Etc2_RGBA` and the host did not write
FORMAT during the command (93 U7). Of the bytes 41 R130 (c) leaves open, and of the words and pixels of a command the host
interfered with (93 U4), the rules do not say that the two runs agree: that they do is the model's choice (log 6, 14: a
free value is a function of the draw counter, which both runs share). -/
def Obligations.Dxt1RunsAsEtc1 : Prop :=
  ∀ s : State, s.cfg.dxt1Policy = .literal → (s.host = [] ∨ s.host = [.writeCtrl 1]) → s.later.format = none →
    s.cfg.formatCode.etc1 ≠ s.cfg.formatCode.etc2Rgba → s.cfg.formatCode.dxt1 ≠ s.cfg.formatCode.etc2Rgba →
    step (putFormat s.cfg.formatCode.dxt1 s) =
      match step (putFormat s.cfg.formatCode.etc1 s) with
      | .next t => .next (putFormat s.cfg.formatCode.dxt1 t)
      | .fault r => .fault r
      | .refused r => .refused r

/-! ### Steps -/

/-- A step runs the decoded word: while BUSY, with nothing pending from the host and no interference, the eight bytes at
the fetch address are decoded by their position, the raw and normalized words are recorded, the instruction executes,
and the step goes on to the record's next word or past the tile (`wordDone`). If one of the eight bytes lies outside the
`ADDR_BITS` address space, the step stops (60 R244, 93 U5; which bound is the model's, log 9, 10). -/
def Obligations.StepRunsFetchedWord : Prop :=
  ∀ s : State, s.host = [] → s.status.busy = true →
    let a := match s.phase with
      | .color => if s.format = s.cfg.formatCode.etc2Rgba then s.cur.srcPtr + 8 else s.cur.srcPtr
      | .alpha => s.cur.srcPtr
    let byte := fun k => Memory.load .src s.src (a + k)
    let w := loadWord (byte 0) (byte 1) (byte 2) (byte 3) (byte 4) (byte 5) (byte 6) (byte 7)
    let kind := match s.phase with
      | .color => WordKind.color
      | .alpha => WordKind.alpha
    let wk := match s.phase with
      | .color => { s.work with w := w, n := normC w }
      | .alpha => { s.work with w := w, a := normA w }
    (∀ i, s.interfered = false → a + 7 < 2 ^ s.cfg.addrBits →
      decodeBytes s.cfg kind [byte 0, byte 1, byte 2, byte 3, byte 4, byte 5, byte 6, byte 7] = .ok (i, []) →
      step s = match exec i (putWork wk s) with
        | .next t => .next (wordDone t)
        | .fault r => .fault r
        | .refused r => .refused r) ∧
    (¬ a + 7 < 2 ^ s.cfg.addrBits → step s = .fault .srcOutOfRange)

/-- A write of CTRL (10_state R29): with START set the step is `exec` of `DECODE`; with START clear, or while BUSY, nothing
changes but the host's queue (log 12); CTRL reads as 0. That bits 31:1 play no part is the model's choice (log 24). -/
def Obligations.StepRunsCommand : Prop :=
  ∀ (s : State) (v : BitVec 32) (rest : List HostEvent), s.host = .writeCtrl v :: rest →
    (step s = if v.getLsbD 0 then exec .decode (putHost rest s) else .next (putHost rest s)) ∧
    (s.status.busy = true → step s = .next (putHost rest s)) ∧ hostRead s .ctrl = 0

/-- Idle, the decoder does nothing (10_state R45, 70 R260); so it is right after reset, whose flags are all 0 and which
lists no byte of memory. -/
def Obligations.IdleAfterReset : Prop :=
  (∀ s : State, s.host = [] → s.status.busy = false → step s = .next s) ∧
    State.reset.status = { busy := false, done := false, err := false, errcode := 0 } ∧
    State.reset.status.toWord = 0 ∧ State.reset.host = [] ∧ State.reset.src = [] ∧ State.reset.dst = []

/-- The advance (45 R187, R188, R189): a decoder step that ends the tile moves SRC_PTR by the record and DST_PTR by 4,
and by a further `3 * WIDTH` past the last tile of a row; after the colour word of an `Etc2_RGBA` tile the cursor stays
and the alpha word is next. One coded word a step, and the phase, are the model's choice (log 11), and so are TX and TY
after the last tile (log 29) and that a command the host interfered with goes on so (log 13, 14). -/
def Obligations.CursorAdvance : Prop :=
  ∀ s t : State, s.host = [] → s.status.busy = true → step s = .next t →
    let last := ¬ s.cur.tx + 1 < s.width.toNat / 4
    if s.phase = .color ∧ s.format = s.cfg.formatCode.etc2Rgba then t.cur = s.cur ∧ t.phase = .alpha ∧ t.status = s.status
    else
      t.phase = .color ∧ t.cur.srcPtr = s.cur.srcPtr + (if s.format = s.cfg.formatCode.etc2Rgba then 16 else 8) ∧
      t.cur.dstPtr = s.cur.dstPtr + 4 + (if last then 3 * s.width.toNat else 0) ∧
      t.cur.tx = (if last then 0 else s.cur.tx + 1) ∧ t.cur.ty = (if last then s.cur.ty + 1 else s.cur.ty) ∧
      t.status = (if t.cur.ty < s.height.toNat / 4 then s.status
        else { busy := false, done := true, err := false, errcode := 0 })

/-- The host's register writes and reads (10_state R22 to R27): while BUSY = 0 the register takes the value and nothing else
changes; while BUSY = 1 the command goes on, marked as interfered with, and the register's later value is any value `x`
(70 R273, 93 U7, log 13), which is what it then reads as; each register without a later value, whatever the others have,
reads as it is. How a register takes a value wider than itself is the model's choice (log 9). -/
def Obligations.HostConfigWrites : Prop :=
  (∀ (s : State) (rest : List HostEvent) (v : BitVec 32) (n : Nat),
    let s' := putHost rest s
    let dim := BitVec.ofNat 32 (v.toNat % 2 ^ s.cfg.dimBits)
    let addr := n % 2 ^ s.cfg.addrBits
    let idle := fun (e : HostEvent) (t : State) => s.status.busy = false → step (putHost (e :: rest) s) = .next t
    let busy := fun (e : HostEvent) (w : Written) (l : Later → Prop) => s.status.busy = true →
      ∃ x, l x ∧ step (putHost (e :: rest) s) =
        .next { s' with later := x, written := w, interfered := true, freeNext := s.freeNext + 1 }
    (idle (.writeFormat v) { s' with format := v, written := { s.written with format := true } } ∧
      busy (.writeFormat v) { s.written with format := true } fun l => ∃ x, l = { s.later with format := some x }) ∧
    (idle (.writeWidth v) { s' with width := dim, written := { s.written with width := true } } ∧
      busy (.writeWidth v) { s.written with width := true } fun l => ∃ x, l = { s.later with width := some x }) ∧
    (idle (.writeHeight v) { s' with height := dim, written := { s.written with height := true } } ∧
      busy (.writeHeight v) { s.written with height := true } fun l => ∃ x, l = { s.later with height := some x }) ∧
    (idle (.writeSrcBase n) { s' with srcBase := addr, written := { s.written with srcBase := true } } ∧
      busy (.writeSrcBase n) { s.written with srcBase := true } fun l => ∃ x, l = { s.later with srcBase := some x }) ∧
    (idle (.writeSrcLen n) { s' with srcLen := addr, written := { s.written with srcLen := true } } ∧
      busy (.writeSrcLen n) { s.written with srcLen := true } fun l => ∃ x, l = { s.later with srcLen := some x }) ∧
    (idle (.writeDstBase n) { s' with dstBase := addr, written := { s.written with dstBase := true } } ∧
      busy (.writeDstBase n) { s.written with dstBase := true } fun l => ∃ x, l = { s.later with dstBase := some x })) ∧
  (∀ s : State,
    (s.later.format = none → hostRead s .format = s.format.toNat) ∧
    (s.later.width = none → hostRead s .width = s.width.toNat) ∧
    (s.later.height = none → hostRead s .height = s.height.toNat) ∧
    (s.later.srcBase = none → hostRead s .srcBase = s.srcBase) ∧
    (s.later.srcLen = none → hostRead s .srcLen = s.srcLen) ∧
    (s.later.dstBase = none → hostRead s .dstBase = s.dstBase) ∧
    (∀ x, s.later.format = some x → hostRead s .format = x.toNat) ∧
    (∀ x, s.later.width = some x → hostRead s .width = x.toNat) ∧
    (∀ x, s.later.height = some x → hostRead s .height = x.toNat) ∧
    (∀ x, s.later.srcBase = some x → hostRead s .srcBase = x) ∧
    (∀ x, s.later.srcLen = some x → hostRead s .srcLen = x) ∧
    (∀ x, s.later.dstBase = some x → hostRead s .dstBase = x))

/-- The host's memory accesses (70 R265, R270, R271, 93 U4): a byte placed in SRC or a pixel written in DST is read back
and every other byte is unchanged; touching the source or the raster of a running command records the interference,
and touching anything else, or touching it while idle, does not. -/
def Obligations.HostMemoryAccesses : Prop :=
  ∀ (s : State) (rest : List HostEvent) (a p : Nat) (b : Byte) (v : Pixel),
    a < 2 ^ s.cfg.addrBits → p < 2 ^ s.cfg.addrBits →
    (∃ t, step (putHost (.writeSrc a b :: rest) s) = .next t ∧ Memory.load .src t.src a = b ∧
      (∀ c, c ≠ a → Memory.load .src t.src c = Memory.load .src s.src c) ∧ t.dst = s.dst ∧ sameConfig s t ∧
      (t.interfered = true ↔ s.interfered = true ∨ (s.status.busy = true ∧ inSource s a))) ∧
    (∃ t, step (putHost (.writeDst p v :: rest) s) = .next t ∧ readPixel t.dst p = v ∧
      (∀ c, c / 4 ≠ p → Memory.load .dst t.dst c = Memory.load .dst s.dst c) ∧ t.src = s.src ∧ sameConfig s t ∧
      (t.interfered = true ↔ s.interfered = true ∨ (s.status.busy = true ∧ inRaster s p))) ∧
    (∃ t, step (putHost (.readDst p :: rest) s) = .next t ∧ t.dst = s.dst ∧ t.src = s.src ∧ sameConfig s t ∧
      (t.interfered = true ↔ s.interfered = true ∨ (s.status.busy = true ∧ inRaster s p)))

/-- Reset (70 R260, R261): idle with no register written, SRC untouched; DST untouched too unless a command was running,
and then untouched outside its raster. -/
def Obligations.ResetLeavesIdle : Prop :=
  ∀ (s : State) (rest : List HostEvent), s.host = .reset :: rest →
    ∃ t, step s = .next t ∧ t.status = Status.idle ∧ t.written = Written.none ∧ t.later = Later.none ∧
      t.phase = .color ∧ t.interfered = false ∧ t.src = s.src ∧ t.cfg = s.cfg ∧ t.host = rest ∧
      (s.status.busy = false → t.dst = s.dst) ∧
      ∀ a, ¬ inRaster s (a / 4) → Memory.load .dst t.dst a = Memory.load .dst s.dst a

/-- What the decoder never writes (20_memory R50; 10_state section 2): a step in which the host does nothing leaves SRC and
the parameters as they were and changes nothing the host reads of a register other than `STATUS`; without interference
no configuration register changes. (Where the host wrote a register during the command, its later value moves into the
register when the command ends, log 13.) -/
def Obligations.DecoderNeverWritesSource : Prop :=
  ∀ s t : State, s.hostQuiet → step s = .next t →
    t.src = s.src ∧ t.cfg = s.cfg ∧ t.host = s.host.tail ∧ (∀ r, r ≠ .status → hostRead t r = hostRead s r) ∧
      (s.interfered = false → sameConfig s t)

/-- The tables and the other parameters are constant (10_state R42): no step of any agent changes them. -/
def Obligations.ParametersNeverChange : Prop :=
  ∀ s t : State, step s = .next t → t.cfg = s.cfg

/-- `STATUS` as the host reads it (10_state R28): BUSY at bit 0, DONE 1, ERR 2, ERRCODE 6:4, every other bit 0; CTRL reads
as 0 (R29). -/
def Obligations.StatusWordLayout : Prop :=
  ∀ s : State,
    let w := s.status.toWord
    w.getLsbD 0 = s.status.busy ∧ w.getLsbD 1 = s.status.done ∧ w.getLsbD 2 = s.status.err ∧
      w.extractLsb' 4 3 = s.status.errcode ∧ (∀ k, k = 3 ∨ 7 ≤ k → w.getLsbD k = false) ∧
      hostRead s .status = w.toNat ∧ hostRead s .ctrl = 0

/-- Host software (48_host_container R201, R206, R211): opening the header the writer emits gives back the size and the
format, with the block data at offset 52, for every mip flag; the writer's `Dxt1` is refused by the opener. (For a buffer of less
than the header's 52 bytes that is the model's choice, log 32.) -/
def Obligations.WrittenHeaderOpens : Prop :=
  ∀ (m : Memory) (buf total : Nat) (f : ImageFormat) (width height : BitVec 32) (mips : Bool),
    (∀ n, n < 13 → (writtenHeader f width height mips)[n]? = some (headerWord m buf n)) →
    (f ≠ .dxt1 → openContainer m buf total = .ok ⟨f, width, height, 52, total⟩) ∧
    (f = .dxt1 → openContainer m buf total = .error .unsupportedPixelFormat)

/-- Host software (48_host_container R206, R207): the halving of a size that is a positive multiple of 4 reaches 1x1 at
the last level, so the container is made, and its length is the header, the base level and every further level clamped
to 4x4, each level starting where the one before ends. So the container made is a valid image (R205). (Rounding of an odd
level: log 31.) -/
def Obligations.CreatedLevels : Prop :=
  ∀ (f : ImageFormat) (width height : BitVec 32) (mips : Bool),
    width.toNat % 4 = 0 → height.toNat % 4 = 0 → width ≠ 0 → height ≠ 0 →
    let w := width.toNat
    let h := height.toNat
    let count := if mips then Nat.log2 (max w h) + 1 else 1
    createContainer f width height mips = .ok ⟨levelStart f w h 52 count, writtenHeader f width height mips⟩ ∧
    Container.valid ⟨f, width, height, 52, levelStart f w h 52 count⟩ ∧
    levelStart f w h 52 1 = 52 + (if f = .etc2Rgba then 2 * (w * h / 2) else w * h / 2) ∧
    (∀ k, levelStart f w h 52 (k + 1) = levelStart f w h 52 k + levelBytes f w h k) ∧
    (∀ k, levelBytes f w h (k + 1) =
      areaBytes f (max 4 (max 1 (w / 2 ^ (k + 1))) * max 4 (max 1 (h / 2 ^ (k + 1)))))

/-! ### Invariants -/

/-- Reset meets the four invariants. -/
def Obligations.InvariantsAtReset : Prop :=
  State.reset.memoryWf ∧ State.reset.status.legal ∧ State.reset.commandInv ∧ State.reset.interferenceInv

/-- Every step keeps both memories in their canonical form. -/
def Obligations.StepKeepsMemoryForm : Prop :=
  ∀ s t : State, s.memoryWf → step s = .next t → t.memoryWf

/-- `STATUS` is always idle, busy, done or refused, and nothing else (10_state R28). -/
def Obligations.StepKeepsStatusLegal : Prop :=
  ∀ s t : State, s.status.legal → step s = .next t →
    t.status.legal ∧ (t.status.toWord.toNat = 0 ∨ t.status.toWord.toNat = 1 ∨ t.status.toWord.toNat = 2 ∨
      t.status.toWord.toNat = 0x24 ∨ t.status.toWord.toNat = 0x34 ∨ t.status.toWord.toNat = 0x54)

/-- A running command has passed the launch checks, and its cursor is the closed form of its tile (45 R191): every step
of any agent keeps that. One word a step, and the phase, are the model's choice (log 11), and so is that a command whose
registers the host wrote meanwhile (70 R273, 93 U7) keeps the values it was launched with and this cursor (log 13). -/
def Obligations.StepKeepsCommandInvariant : Prop :=
  ∀ s t : State, s.commandInv → step s = .next t → t.commandInv

/-- The marks of interference (70 R270, R271, R273; log 13, 14): while no command runs none is set and every register
holds its value; every step of any agent keeps that. -/
def Obligations.StepKeepsInterferenceInvariant : Prop :=
  ∀ s t : State, s.interferenceInv → step s = .next t → t.interferenceInv

/-! ### The whole machine -/

/-- No coded word stops the decoder (60 R230): while BUSY, in a state that meets the command invariant, with its regions
inside the address space and the host doing nothing, the step answers a next state, whatever SRC holds; a command the
host interfered with goes on too (log 13, 14). -/
def Obligations.NoCodedWordStops : Prop :=
  ∀ s : State, s.commandInv → s.status.busy = true → s.regionsExist → s.hostQuiet → ∃ t, step s = .next t

/-- A running command writes its raster only (45 R190): every byte of DST outside it reads as before. That this holds of a
command the host interfered with too is the model's choice (log 13, 14). -/
def Obligations.CommandWritesOnlyRaster : Prop :=
  ∀ s t : State, s.commandInv → s.status.busy = true → s.hostQuiet → step s = .next t →
    ∀ a, ¬ inRaster s (a / 4) → Memory.load .dst t.dst a = Memory.load .dst s.dst a

/-- Every `DECODE` under the launch premise whose checks pass ends after exactly one step for each coded word (45 R190, 70
R280; one word a step is the model's choice, log 11): every shorter run is still BUSY, and then DONE is set, the
configuration and SRC are unchanged, and nothing outside the raster is touched. The host does nothing meanwhile: each
access of its own would be a step more (ExclusiveAccessesHarmless says what those it may make change). What the raster
holds is RasterIsDecodedImage. -/
def Obligations.CommandEnds : Prop :=
  ∀ s : State, s.launchPremise → s.launchLegal → s.hostQuiet →
    (∀ k, k < s.wordSteps → ∃ u, Sys2Proof.core.run (1 + k) (putHost (.writeCtrl 1 :: s.host) s) = .next u ∧
      u.status = { busy := true, done := false, err := false, errcode := 0 }) ∧
    ∃ t, Sys2Proof.core.run (1 + s.wordSteps) (putHost (.writeCtrl 1 :: s.host) s) = .next t ∧
      t.status = { busy := false, done := true, err := false, errcode := 0 } ∧ sameConfig s t ∧ t.src = s.src ∧
      ∀ a, ¬ inRaster s (a / 4) → Memory.load .dst t.dst a = Memory.load .dst s.dst a

/-- The raster of a completed command, of every format, is the decoding of its words (45 R187, R190, R191; 42 R147): the
pixel of ordinal `k` of tile (`tx`, `ty`) has the colour bytes that tile's colour word gives ordinal `k`, and the alpha
that tile's alpha word gives it for `Etc2_RGBA` (44 R172, R173), 255 for the other formats. Only the bytes 41 R130 (c)
leaves open (`openChannels`) are not named: red or green of sub-block 1 where that sum is out of range. -/
def Obligations.RasterIsDecodedImage : Prop :=
  ∀ s : State, s.launchPremise → s.launchLegal → s.hostQuiet →
    ∃ t, Sys2Proof.core.run (1 + s.wordSteps) (putHost (.writeCtrl 1 :: s.host) s) = .next t ∧
      ∀ tx ty k, tx < s.width.toNat / 4 → ty < s.height.toNat / 4 → k < 16 →
        let i := decodeColor s.cfg (tileColorWord s tx ty)
        let v := readPixel t.dst (rasterPixel s tx ty (colOf s.cfg.pixelOrder k) (rowOf s.cfg.pixelOrder k))
        sameColor (openChannels s.cfg i k) v (wordPixel s.cfg i k) ∧
          v.extractLsb' 24 8 = if s.format = s.cfg.formatCode.etc2Rgba then
            alphaOf s.cfg (alphaFields s.cfg.layoutAlphaHdr (tileAlphaWord s tx ty)) k else 255

/-- One tile of an `Etc2_RGBA` image (45 R187, 20_memory R61): in the two steps from its start the colour word at offset
8 is executed first and the alpha word at offset 0 over it, so each pixel holds the colour word's colour, its open bytes
(41 R130) apart, and the alpha word's alpha. -/
def Obligations.AlphaOverColor : Prop :=
  ∀ (s : State) (f : AlphaWord), s.commandInv → s.status.busy = true → s.regionsExist → s.host = [] →
    s.interfered = false → s.phase = .color → s.format = s.cfg.formatCode.etc2Rgba →
    decodeAlpha s.cfg (tileAlphaWord s s.cur.tx s.cur.ty) = .awAlpha f →
    ∃ t, Sys2Proof.core.run 2 s = .next t ∧
      ∀ k, k < 16 →
        let i := decodeColor s.cfg (tileColorWord s s.cur.tx s.cur.ty)
        let v := readPixel t.dst (rasterPixel s s.cur.tx s.cur.ty (colOf s.cfg.pixelOrder k) (rowOf s.cfg.pixelOrder k))
        sameColor (openChannels s.cfg i k) v (wordPixel s.cfg i k) ∧
          v.extractLsb' 24 8 = alphaValue s.cfg f.base f.mul f.tbl (selector f.sels k)

/-- What the host may do during a command (70 R266 `P-excl`, R270, R271; 10_state R29): an access to a byte of SRC or a
pixel of DST that exists and is not the command's, or a write of CTRL, takes a step that leaves the decoder, the source
bytes and the raster of the command as they were. -/
def Obligations.ExclusiveAccessesHarmless : Prop :=
  ∀ (s : State) (e : HostEvent) (rest : List HostEvent), s.status.busy = true → e ≠ .run → e.harmless s →
    ∃ src dst, step (putHost (e :: rest) s) = .next { s with src := src, dst := dst, host := rest } ∧
      (∀ a, inSource s a → Memory.load .src src a = Memory.load .src s.src a) ∧
      (∀ a, inRaster s (a / 4) → Memory.load .dst dst a = Memory.load .dst s.dst a)

/-! ### The parameters -/

/-- The parameter values of 00_scope R14 at reset, the entries of `ROM_C` and `ROM_A` (10_state R40, R41) and the layouts
among them. `ADDR_BITS` and `CSR_MAP` are open in the spec (log 9, 24); the layouts and the tables are its own from general
knowledge (log 16). -/
def Obligations.ParametersAtReset : Prop :=
  let c := State.reset.cfg
  c.wordBits.bits = 64 ∧ c.tileW.toNat = 4 ∧ c.tileH.toNat = 4 ∧ c.pixelBits.bits = 32 ∧
  c.pixelLayout.r = 0 ∧ c.pixelLayout.g = 8 ∧ c.pixelLayout.b = 16 ∧ c.pixelLayout.a = 24 ∧
  c.wordLoadOrder = .littleEndian ∧ c.pixelOrder = .rowMajor ∧ c.indexMsbHalf = .upper ∧
  c.rgOverflowPolicy = .anyValue ∧ c.dxt1Policy = .literal ∧ c.dimBits = 32 ∧
  c.formatCode = { etc1 := 6, dxt1 := 7, etc2Rgb := 22, etc2Rgba := 23 } ∧
  c.layoutColorLo = { indiv0 := ⟨28, 20, 12⟩, indiv1 := ⟨24, 16, 8⟩, diff0 := ⟨27, 19, 11⟩, delta := ⟨24, 16, 8⟩
                      t0 := 5, t1 := 2 } ∧
  c.layoutPlanar = { ro := 25, go6 := 24, go := 17, bo5 := 16, bo43 := 11, bo := 7, rh := 2, gh := 57, bh := 51
                     rv := 45, gv := 38, bv := 32 } ∧
  c.layoutAlphaHdr = { base := 56, mul := 52, tbl := 48 } ∧
  c.colorModTable.toList.map Vector.toList =
    [[2, 8, -2, -8], [5, 17, -5, -17], [9, 29, -9, -29], [13, 42, -13, -42],
      [18, 60, -18, -60], [24, 80, -24, -80], [33, 106, -33, -106], [47, 183, -47, -183]] ∧
  c.alphaModTable.toList.map Vector.toList =
    [[-3, -6, -9, -15, 2, 5, 8, 14], [-3, -7, -10, -13, 2, 6, 9, 12], [-2, -5, -8, -13, 1, 4, 7, 12],
      [-2, -4, -6, -13, 1, 3, 5, 12], [-3, -6, -8, -12, 2, 5, 7, 11], [-3, -7, -9, -11, 2, 6, 8, 10],
      [-4, -7, -8, -11, 3, 6, 7, 10], [-3, -5, -8, -11, 2, 4, 7, 10], [-2, -6, -8, -10, 1, 5, 7, 9],
      [-2, -5, -8, -10, 1, 4, 7, 9], [-2, -4, -8, -10, 1, 3, 7, 9], [-2, -5, -7, -10, 1, 4, 6, 9],
      [-3, -4, -7, -10, 2, 3, 6, 9], [-1, -2, -3, -10, 0, 1, 2, 9], [-4, -6, -8, -9, 3, 5, 7, 8],
      [-3, -5, -7, -9, 2, 4, 6, 8]]

/-- The byte lanes of a pixel (20_memory R56): R in bits 7:0, G in 15:8, B in 23:16, A in 31:24, and `pack` puts each
channel there; an alpha update replaces the lane of A alone (44 R173). -/
def Obligations.PixelLanes : Prop :=
  ∀ (l : PixelLayout) (r g b a : Byte) (v : Pixel),
    (pack l r g b a).extractLsb' 0 8 = r ∧ (pack l r g b a).extractLsb' 8 8 = g ∧
    (pack l r g b a).extractLsb' 16 8 = b ∧ (pack l r g b a).extractLsb' 24 8 = a ∧
    (withAlpha l v a).extractLsb' 24 8 = a ∧ (withAlpha l v a).extractLsb' 0 24 = v.extractLsb' 0 24
end

