-- ==== Sys2Proof/Laws/Decode.lean ====
section
/-! SUPPORT. Small laws of the byte-order rules: each undoes itself, and storing a word and loading it gives it back. -/

namespace Sys2Proof

/-- `NORM_C` is its own inverse (spec 40_normalize R111). -/
theorem normC_normC (w : CodedWord) : normC (normC w) = w := by
  apply BitVec.eq_of_getLsbD_eq
  intro i hi
  unfold normC bswap32
  simp only [BitVec.getLsbD_append, BitVec.getLsbD_extractLsb']
  interval_cases i <;> simp

/-- `NORM_A` is its own inverse (spec 40_normalize R112). -/
theorem normA_normA (w : CodedWord) : normA (normA w) = w := by
  apply BitVec.eq_of_getLsbD_eq
  intro i hi
  unfold normA bswap64
  simp only [BitVec.getLsbD_append, BitVec.getLsbD_extractLsb']
  interval_cases i <;> simp

/-- The stored bytes of a raw word load as that word (spec 40_normalize R110). -/
theorem loadWord_storeWord (w : CodedWord) :
    loadWord (w.extractLsb' 0 8) (w.extractLsb' 8 8) (w.extractLsb' 16 8) (w.extractLsb' 24 8)
      (w.extractLsb' 32 8) (w.extractLsb' 40 8) (w.extractLsb' 48 8) (w.extractLsb' 56 8) = w := by
  apply BitVec.eq_of_getLsbD_eq
  intro i hi
  unfold loadWord
  simp only [BitVec.getLsbD_append, BitVec.getLsbD_extractLsb']
  interval_cases i <;> simp

/-- The spec gives the load order one value. -/
@[simp] theorem rawWord_eq (o : WordLoadOrder) (b0 b1 b2 b3 b4 b5 b6 b7 : Byte) :
    rawWord o b0 b1 b2 b3 b4 b5 b6 b7 = loadWord b0 b1 b2 b3 b4 b5 b6 b7 := rfl

/-- A stored colour word decodes as its normalized word does. -/
theorem decodeBytes_color (cfg : Config) (n : CodedWord) (rest : List Byte) :
    decodeBytes cfg .color (storeWord (normC n) ++ rest) = .ok (decodeColor cfg n, rest) := by
  simp [storeWord, decodeBytes, loadWord_storeWord, normC_normC]

/-- A stored alpha word decodes as its normalized word does. -/
theorem decodeBytes_alpha (cfg : Config) (a : CodedWord) (rest : List Byte) :
    decodeBytes cfg .alpha (storeWord (normA a) ++ rest) = .ok (decodeAlpha cfg a, rest) := by
  simp [storeWord, decodeBytes, loadWord_storeWord, normA_normA]

/-! ### The fields in the spec's layouts (spec 30_encoding R83, R84, R86, R87) -/

theorem indivFields_spec (n : CodedWord) :
    indivFields Machine.specColorLayout n =
      { c0 := ⟨n.extractLsb' 28 4, n.extractLsb' 20 4, n.extractLsb' 12 4⟩
        c1 := ⟨n.extractLsb' 24 4, n.extractLsb' 16 4, n.extractLsb' 8 4⟩
        t0 := n.extractLsb' 5 3, t1 := n.extractLsb' 2 3, flip := n.extractLsb' 0 1
        il := n.extractLsb' 32 16, ih := n.extractLsb' 48 16 } := rfl

theorem diffFields_spec (n : CodedWord) :
    diffFields Machine.specColorLayout n =
      { c0 := ⟨n.extractLsb' 27 5, n.extractLsb' 19 5, n.extractLsb' 11 5⟩
        d := ⟨n.extractLsb' 24 3, n.extractLsb' 16 3, n.extractLsb' 8 3⟩
        t0 := n.extractLsb' 5 3, t1 := n.extractLsb' 2 3, flip := n.extractLsb' 0 1
        il := n.extractLsb' 32 16, ih := n.extractLsb' 48 16 } := rfl

theorem planarFields_spec (n : CodedWord) :
    planarFields Machine.specPlanarLayout n =
      { o := ⟨n.extractLsb' 25 6, n.extractLsb' 24 1 ++ n.extractLsb' 17 6,
          n.extractLsb' 16 1 ++ n.extractLsb' 11 2 ++ n.extractLsb' 7 3⟩
        h := ⟨n.extractLsb' 2 5 ++ n.extractLsb' 0 1, n.extractLsb' 57 7, n.extractLsb' 51 6⟩
        v := ⟨n.extractLsb' 45 6, n.extractLsb' 38 7, n.extractLsb' 32 6⟩
        u31 := n.extractLsb' 31 1, u23 := n.extractLsb' 23 1, u15 := n.extractLsb' 13 3, u10 := n.extractLsb' 10 1 } := rfl

theorem alphaFields_spec (a : CodedWord) :
    alphaFields Machine.specAlphaLayout a =
      { base := a.extractLsb' 56 8, mul := a.extractLsb' 52 4, tbl := a.extractLsb' 48 4, sels := a.extractLsb' 0 48 } := rfl

theorem blueSum_spec (n : CodedWord) :
    blueSum Machine.specColorLayout n = (n.extractLsb' 11 5).toNat + sext3 (n.extractLsb' 8 3) := rfl

end Sys2Proof
end

