-- ==== Sys2Proof/Laws/Memory.lean ====
section
/-! SUPPORT. What the memory operations do: read after write, the canonical form, pixels, lists of stores. -/

namespace Sys2Proof.Machine

/-! ### Byte cells -/

theorem Memory.read?_write (m : Memory) (a b : Nat) (v : Byte) :
    Memory.read? (Memory.write m a v) b = if a = b then some v else Memory.read? m b := by
  induction m with
  | nil => simp [Memory.write, Memory.read?]
  | cons c m ih =>
    by_cases h1 : a < c.1
    · simp [Memory.write, Memory.read?, h1]
    · by_cases h2 : a = c.1
      · by_cases h3 : a = b
        · simp [Memory.write, Memory.read?, h2, ← h3]
        · have h4 : ¬ c.1 = b := fun h => h3 (h2.trans h)
          simp [Memory.write, Memory.read?, h2, h4]
      · by_cases h3 : c.1 = b
        · have h4 : ¬ a = b := fun h => h2 (h.trans h3.symm)
          have h5 : ¬ a < b := h3 ▸ h1
          simp [Memory.write, Memory.read?, h3, h4, h5]
        · simp [Memory.write, Memory.read?, h1, h2, h3, ih]

theorem Memory.load_write (sp : Space) (m : Memory) (a b : Nat) (v : Byte) :
    Memory.load sp (Memory.write m a v) b = if a = b then v else Memory.load sp m b := by
  unfold Memory.load
  rw [Memory.read?_write]
  split <;> rfl

@[simp] theorem Memory.load_write_same (sp : Space) (m : Memory) (a : Nat) (v : Byte) :
    Memory.load sp (Memory.write m a v) a = v := by simp [Memory.load_write]

theorem Memory.load_write_other (sp : Space) (m : Memory) {a b : Nat} (v : Byte) (h : a ≠ b) :
    Memory.load sp (Memory.write m a v) b = Memory.load sp m b := by simp [Memory.load_write, h]

/-- The canonical form as a statement about all later cells. -/
theorem Memory.wf_cons (c : Host.Cell) (m : Memory) :
    Memory.wf (c :: m) = true ↔ (∀ d ∈ m, c.1 < d.1) ∧ Memory.wf m = true := by
  induction m generalizing c with
  | nil => simp [Memory.wf]
  | cons d m ih =>
    have h := ih d
    simp only [Memory.wf, Bool.and_eq_true, decide_eq_true_eq, List.mem_cons, forall_eq_or_imp]
    constructor
    · rintro ⟨h1, h2⟩
      exact ⟨⟨h1, fun e he => h1.trans ((h.1 h2).1 e he)⟩, h2⟩
    · rintro ⟨⟨h1, -⟩, h2⟩
      exact ⟨h1, h2⟩

theorem Memory.mem_write {m : Memory} {a : Nat} {v : Byte} {d : Host.Cell} (h : d ∈ Memory.write m a v) :
    d = (a, v) ∨ d ∈ m := by
  induction m with
  | nil => simpa [Memory.write] using h
  | cons c m ih =>
    unfold Memory.write at h
    split at h
    · simpa using h
    · split at h
      · rcases List.mem_cons.1 h with h | h
        · exact .inl h
        · exact .inr (List.mem_cons_of_mem _ h)
      · rcases List.mem_cons.1 h with h | h
        · exact .inr (h ▸ List.mem_cons_self)
        · exact (ih h).imp_right (List.mem_cons_of_mem _)

/-- A store keeps the canonical form. -/
theorem Memory.write_wf (m : Memory) (a : Nat) (v : Byte) (h : Memory.wf m = true) :
    Memory.wf (Memory.write m a v) = true := by
  induction m with
  | nil => rfl
  | cons c m ih =>
    have hc := (Memory.wf_cons c m).1 h
    unfold Memory.write
    split
    · rename_i h1
      refine (Memory.wf_cons _ _).2 ⟨?_, h⟩
      intro d hd
      rcases List.mem_cons.1 hd with rfl | hd
      · exact h1
      · exact h1.trans (hc.1 d hd)
    · split
      · rename_i h2
        exact (Memory.wf_cons _ _).2 ⟨fun d hd => h2 ▸ hc.1 d hd, hc.2⟩
      · refine (Memory.wf_cons _ _).2 ⟨?_, ih hc.2⟩
        intro d hd
        rcases Memory.mem_write hd with rfl | hd
        · simp only; omega
        · exact hc.1 d hd

/-! ### Pixels -/

/-- A pixel store leaves every byte outside its four cells alone. -/
theorem load_writePixel_other (sp : Space) (m : Memory) (p a : Nat) (v : Pixel) (h : a / 4 ≠ p) :
    Memory.load sp (writePixel m p v) a = Memory.load sp m a := by
  unfold writePixel
  rw [Memory.load_write_other _ _ _ (by omega), Memory.load_write_other _ _ _ (by omega),
    Memory.load_write_other _ _ _ (by omega), Memory.load_write_other _ _ _ (by omega)]

theorem readPixel_writePixel_same (m : Memory) (p : Nat) (v : Pixel) : readPixel (writePixel m p v) p = v := by
  have e3 : Memory.load .dst (writePixel m p v) (4 * p + 3) = v.extractLsb' 24 8 := by
    simp [writePixel]
  have e2 : Memory.load .dst (writePixel m p v) (4 * p + 2) = v.extractLsb' 16 8 := by
    simp [writePixel, Memory.load_write]
  have e1 : Memory.load .dst (writePixel m p v) (4 * p + 1) = v.extractLsb' 8 8 := by
    simp [writePixel, Memory.load_write]
  have e0 : Memory.load .dst (writePixel m p v) (4 * p) = v.extractLsb' 0 8 := by
    simp [writePixel, Memory.load_write]
  unfold readPixel
  rw [e0, e1, e2, e3]
  ext i hi
  simp only [BitVec.getElem_append, BitVec.getElem_extractLsb']
  repeat' split
  all_goals first
    | omega
    | (rw [← BitVec.getLsbD_eq_getElem]; congr 1; omega)

theorem readPixel_writePixel_other (m : Memory) {p q : Nat} (v : Pixel) (h : p ≠ q) :
    readPixel (writePixel m p v) q = readPixel m q := by
  unfold readPixel
  rw [load_writePixel_other _ _ _ _ _ (by omega), load_writePixel_other _ _ _ _ _ (by omega),
    load_writePixel_other _ _ _ _ _ (by omega), load_writePixel_other _ _ _ _ _ (by omega)]

theorem readPixel_writePixel (m : Memory) (p q : Nat) (v : Pixel) :
    readPixel (writePixel m p v) q = if p = q then v else readPixel m q := by
  split
  · rename_i h; rw [h, readPixel_writePixel_same]
  · rename_i h; rw [readPixel_writePixel_other _ _ h]

theorem writePixel_wf (m : Memory) (p : Nat) (v : Pixel) (h : Memory.wf m = true) :
    Memory.wf (writePixel m p v) = true :=
  Memory.write_wf _ _ _ (Memory.write_wf _ _ _ (Memory.write_wf _ _ _ (Memory.write_wf _ _ _ h)))

/-! ### Lists of stores -/

theorem load_writePixels_other (sp : Space) (ps : List (Nat × Pixel)) (m : Memory) (a : Nat)
    (h : ∀ q ∈ ps, q.1 ≠ a / 4) : Memory.load sp (writePixels m ps) a = Memory.load sp m a := by
  induction ps generalizing m with
  | nil => rfl
  | cons q ps ih =>
    have := ih (writePixel m q.1 q.2) (fun r hr => h r (List.mem_cons_of_mem _ hr))
    rw [← load_writePixel_other sp m q.1 a q.2 (h q List.mem_cons_self).symm]
    exact this

theorem readPixel_writePixels_other (ps : List (Nat × Pixel)) (m : Memory) (p : Nat) (h : ∀ q ∈ ps, q.1 ≠ p) :
    readPixel (writePixels m ps) p = readPixel m p := by
  induction ps generalizing m with
  | nil => rfl
  | cons q ps ih =>
    rw [← readPixel_writePixel_other m q.2 (h q List.mem_cons_self)]
    exact ih (writePixel m q.1 q.2) (fun r hr => h r (List.mem_cons_of_mem _ hr))

/-- Stores to different pixels all land. -/
theorem readPixel_writePixels_mem (ps : List (Nat × Pixel)) (m : Memory) (q : Nat × Pixel)
    (hn : (ps.map Prod.fst).Nodup) (hq : q ∈ ps) : readPixel (writePixels m ps) q.1 = q.2 := by
  induction ps generalizing m with
  | nil => simp at hq
  | cons r ps ih =>
    simp only [List.map_cons, List.nodup_cons] at hn
    rcases List.mem_cons.1 hq with rfl | hq
    · have h : ∀ u ∈ ps, u.1 ≠ q.1 := fun u hu he => hn.1 (he ▸ List.mem_map_of_mem hu)
      exact (readPixel_writePixels_other ps _ q.1 h).trans (readPixel_writePixel_same m q.1 q.2)
    · exact ih (writePixel m r.1 r.2) hn.2 hq

theorem writePixels_wf (ps : List (Nat × Pixel)) (m : Memory) (h : Memory.wf m = true) :
    Memory.wf (writePixels m ps) = true := by
  induction ps generalizing m with
  | nil => exact h
  | cons q ps ih => exact ih _ (writePixel_wf m q.1 q.2 h)

/-! ### Alpha updates -/

theorem updateAlpha_eq (l : PixelLayout) (m : Memory) (p : Nat) (a : Byte) :
    updateAlpha l m p a = writePixel m p (withAlpha l (readPixel m p) a) := rfl

theorem load_updateAlphas_other (l : PixelLayout) (sp : Space) (ps : List (Nat × Byte)) (m : Memory) (a : Nat)
    (h : ∀ q ∈ ps, q.1 ≠ a / 4) : Memory.load sp (updateAlphas l m ps) a = Memory.load sp m a := by
  induction ps generalizing m with
  | nil => rfl
  | cons q ps ih =>
    rw [← load_writePixel_other sp m q.1 a (withAlpha l (readPixel m q.1) q.2) (h q List.mem_cons_self).symm]
    exact ih (updateAlpha l m q.1 q.2) (fun r hr => h r (List.mem_cons_of_mem _ hr))

theorem readPixel_updateAlphas_other (l : PixelLayout) (ps : List (Nat × Byte)) (m : Memory) (p : Nat) (h : ∀ q ∈ ps, q.1 ≠ p) :
    readPixel (updateAlphas l m ps) p = readPixel m p := by
  induction ps generalizing m with
  | nil => rfl
  | cons q ps ih =>
    rw [← readPixel_writePixel_other m (withAlpha l (readPixel m q.1) q.2) (h q List.mem_cons_self)]
    exact ih (updateAlpha l m q.1 q.2) (fun r hr => h r (List.mem_cons_of_mem _ hr))

/-- Updates of different pixels all land on what the memory held before them. -/
theorem readPixel_updateAlphas_mem (l : PixelLayout) (ps : List (Nat × Byte)) (m : Memory) (q : Nat × Byte)
    (hn : (ps.map Prod.fst).Nodup) (hq : q ∈ ps) :
    readPixel (updateAlphas l m ps) q.1 = withAlpha l (readPixel m q.1) q.2 := by
  induction ps generalizing m with
  | nil => simp at hq
  | cons r ps ih =>
    simp only [List.map_cons, List.nodup_cons] at hn
    rcases List.mem_cons.1 hq with rfl | hq
    · have h : ∀ u ∈ ps, u.1 ≠ q.1 := fun u hu he => hn.1 (he ▸ List.mem_map_of_mem hu)
      exact (readPixel_updateAlphas_other l ps _ q.1 h).trans (readPixel_writePixel_same m q.1 _)
    · have hne : r.1 ≠ q.1 := fun he => hn.1 (he ▸ List.mem_map_of_mem hq)
      rw [← readPixel_writePixel_other m (withAlpha l (readPixel m r.1) r.2) hne]
      exact ih (updateAlpha l m r.1 r.2) hn.2 hq

theorem updateAlphas_wf (l : PixelLayout) (ps : List (Nat × Byte)) (m : Memory) (h : Memory.wf m = true) :
    Memory.wf (updateAlphas l m ps) = true := by
  induction ps generalizing m with
  | nil => exact h
  | cons q ps ih => exact ih _ (writePixel_wf m q.1 _ h)

/-! ### Free raster -/

theorem scramble_wf (m : Memory) (base limit draw k : Nat) (h : Memory.wf m = true) :
    Memory.wf (scramble m base limit draw k) = true := by
  induction k with
  | zero => exact h
  | succ k ih =>
    unfold scramble
    split
    · exact writePixel_wf _ _ _ ih
    · exact ih

theorem load_scramble_other (sp : Space) (m : Memory) (base limit draw k a : Nat)
    (h : a / 4 < base ∨ base + k ≤ a / 4) :
    Memory.load sp (scramble m base limit draw k) a = Memory.load sp m a := by
  induction k with
  | zero => rfl
  | succ k ih =>
    unfold scramble
    split
    · rw [load_writePixel_other _ _ _ _ _ (by omega), ih (by omega)]
    · exact ih (by omega)

end Sys2Proof.Machine
end

