-- ==== Sys2Proof/Laws/Operands.lean ====
section
/-! SUPPORT. The small laws of parameters, pixels and operand forms: the parameters of one value, the sizes they give, the
bytes of a packed pixel, the alpha update as a concatenation, the selector as a shift. -/

namespace Sys2Proof

/-! ### The parameters of one value -/

@[simp] theorem WordBits.bits_eq (w : WordBits) : w.bits = 64 := rfl
@[simp] theorem WordBits.bytes_eq (w : WordBits) : w.bytes = 8 := rfl
@[simp] theorem TileSide.toNat_eq (t : TileSide) : t.toNat = 4 := rfl
@[simp] theorem PixelBits.bits_eq (p : PixelBits) : p.bits = 32 := rfl
@[simp] theorem PixelLayout.r_eq (l : PixelLayout) : l.r = 0 := rfl
@[simp] theorem PixelLayout.g_eq (l : PixelLayout) : l.g = 8 := rfl
@[simp] theorem PixelLayout.b_eq (l : PixelLayout) : l.b = 16 := rfl
@[simp] theorem PixelLayout.a_eq (l : PixelLayout) : l.a = 24 := rfl

end Sys2Proof

namespace Sys2Proof.Machine

/-! ### The sizes of a command, in numbers -/

theorem recBytes_eq (s : State) : recBytes s = if hasAlpha s then 16 else 8 := rfl

theorem tiles_eq (s : State) : tiles s = (s.width.toNat / 4) * (s.height.toNat / 4) := rfl

theorem geometryLegal_iff (s : State) : geometryLegal s ↔ s.width.toNat % 4 = 0 ∧ s.height.toNat % 4 = 0 := Iff.rfl

/-! ### Pixels -/

theorem pack_eq (l : PixelLayout) (r g b a : Byte) : pack l r g b a = a ++ b ++ g ++ r := rfl

@[simp] theorem pack_red (l : PixelLayout) (r g b a : Byte) : (pack l r g b a).extractLsb' 0 8 = r := by
  apply BitVec.eq_of_getLsbD_eq
  intro i hi
  simp only [pack_eq, BitVec.getLsbD_append, BitVec.getLsbD_extractLsb']
  interval_cases i <;> simp

@[simp] theorem pack_green (l : PixelLayout) (r g b a : Byte) : (pack l r g b a).extractLsb' 8 8 = g := by
  apply BitVec.eq_of_getLsbD_eq
  intro i hi
  simp only [pack_eq, BitVec.getLsbD_append, BitVec.getLsbD_extractLsb']
  interval_cases i <;> simp

@[simp] theorem pack_blue (l : PixelLayout) (r g b a : Byte) : (pack l r g b a).extractLsb' 16 8 = b := by
  apply BitVec.eq_of_getLsbD_eq
  intro i hi
  simp only [pack_eq, BitVec.getLsbD_append, BitVec.getLsbD_extractLsb']
  interval_cases i <;> simp

@[simp] theorem pack_alpha (l : PixelLayout) (r g b a : Byte) : (pack l r g b a).extractLsb' 24 8 = a := by
  apply BitVec.eq_of_getLsbD_eq
  intro i hi
  simp only [pack_eq, BitVec.getLsbD_append, BitVec.getLsbD_extractLsb']
  interval_cases i <;> simp

/-- A pixel is its alpha byte above its three colour bytes. -/
theorem pixel_split (v : Pixel) : v = v.extractLsb' 24 8 ++ v.extractLsb' 0 24 := by
  apply BitVec.eq_of_getLsbD_eq
  intro i hi
  simp only [BitVec.getLsbD_append, BitVec.getLsbD_extractLsb']
  interval_cases i <;> simp

theorem withAlpha_eq (l : PixelLayout) (old : Pixel) (a : Byte) : withAlpha l old a = a ++ old.extractLsb' 0 24 := by
  apply BitVec.eq_of_getLsbD_eq
  intro i hi
  simp only [withAlpha, PixelLayout.a_eq, BitVec.getLsbD_or, BitVec.getLsbD_and, BitVec.getLsbD_shiftLeft, BitVec.getLsbD_setWidth,
    BitVec.getLsbD_append, BitVec.getLsbD_extractLsb']
  interval_cases i <;> simp

/-- An alpha update keeps the three colour bytes. -/
@[simp] theorem withAlpha_color (l : PixelLayout) (old : Pixel) (a : Byte) : (withAlpha l old a).extractLsb' 0 24 = old.extractLsb' 0 24 := by
  rw [withAlpha_eq]
  apply BitVec.eq_of_getLsbD_eq
  intro i hi
  simp only [BitVec.getLsbD_append, BitVec.getLsbD_extractLsb']
  interval_cases i <;> simp

@[simp] theorem withAlpha_alpha (l : PixelLayout) (old : Pixel) (a : Byte) : (withAlpha l old a).extractLsb' 24 8 = a := by
  rw [withAlpha_eq]
  apply BitVec.eq_of_getLsbD_eq
  intro i hi
  simp only [BitVec.getLsbD_append, BitVec.getLsbD_extractLsb']
  interval_cases i <;> simp

theorem selector_eq_shift (sels : BitVec 48) (p : Nat) : selector sels p = (sels >>> (45 - 3 * p)).setWidth 3 := by
  apply BitVec.eq_of_getLsbD_eq
  intro i hi
  simp [selector, hi]

end Sys2Proof.Machine
end

