-- ==== Sys2Proof/Laws/PerInstr.lean ====
section
/-! SUPPORT. The per-instruction family TableMatch: an instruction's encoded word meets the mask and match of its row of
spec/opcode_table.json. -/

namespace Sys2Proof.Laws.TableMatch

/-- The word the table's row describes: `N`, `A`, or the value written to CTRL (opcode_table.json "word"). -/
def word : Instr → CodedWord
  | .cwIndiv f => encodeIndiv f
  | .cwPlanar f => encodePlanar f
  | .cwDiff f => encodeDiff f
  | .awAlpha f => encodeAlpha f
  | .decode => 1

/-- "mask" of the row. -/
def mask : Instr → CodedWord
  | .cwIndiv _ => 2
  | .cwPlanar _ => 2
  | .cwDiff _ => 2
  | .awAlpha _ => 0
  | .decode => 1

/-- "match" of the row. -/
def pattern : Instr → CodedWord
  | .cwIndiv _ => 0
  | .cwPlanar _ => 2
  | .cwDiff _ => 2
  | .awAlpha _ => 0
  | .decode => 1

def Statement (i : Instr) : Prop := word i &&& mask i = pattern i

/-- A word masked by 2 keeps its bit 1 and nothing else. -/
theorem and_two (w : CodedWord) : w &&& 2 = if w.getLsbD 1 then 2 else 0 := by
  apply BitVec.eq_of_getLsbD_eq
  intro i hi
  rw [BitVec.getLsbD_and]
  by_cases h : i = 1
  · subst h
    cases w.getLsbD 1 <;> simp
  · have : (2#64).getLsbD i = false := by
      rw [BitVec.getLsbD_ofNat]
      have : Nat.testBit 2 i = false := by
        rw [show 2 = 2 ^ 1 from rfl, Nat.testBit_two_pow]
        simp; omega
      simp [this]
    cases w.getLsbD 1 <;> simp_all

theorem cwIndiv (f : IndivWord) : Statement (.cwIndiv f) := by
  have : (encodeIndiv f).getLsbD 1 = false := by
    simp only [encodeIndiv, BitVec.getLsbD_append]
    simp
  unfold Statement word mask pattern
  rw [and_two, this]
  rfl

theorem cwPlanar (f : PlanarWord) : Statement (.cwPlanar f) := by
  have : (encodePlanar f).getLsbD 1 = true := by
    simp only [encodePlanar, BitVec.getLsbD_append]
    simp
  unfold Statement word mask pattern
  rw [and_two, this]
  rfl

theorem cwDiff (f : DiffWord) : Statement (.cwDiff f) := by
  have : (encodeDiff f).getLsbD 1 = true := by
    simp only [encodeDiff, BitVec.getLsbD_append]
    simp
  unfold Statement word mask pattern
  rw [and_two, this]
  rfl

theorem awAlpha (f : AlphaWord) : Statement (.awAlpha f) := BitVec.and_zero

theorem decode : Statement .decode := rfl

end Sys2Proof.Laws.TableMatch
end

