-- ==== Sys2Proof/Laws/State.lean ====
section
/-! SUPPORT. One lemma per field per named update of the state: what the update leaves in that field. -/

namespace Sys2Proof.Machine

@[simp] theorem putWork_cfg (wk : Work) (s : State) : (putWork wk s).cfg = s.cfg := rfl
@[simp] theorem putWork_format (wk : Work) (s : State) : (putWork wk s).format = s.format := rfl
@[simp] theorem putWork_width (wk : Work) (s : State) : (putWork wk s).width = s.width := rfl
@[simp] theorem putWork_height (wk : Work) (s : State) : (putWork wk s).height = s.height := rfl
@[simp] theorem putWork_srcBase (wk : Work) (s : State) : (putWork wk s).srcBase = s.srcBase := rfl
@[simp] theorem putWork_srcLen (wk : Work) (s : State) : (putWork wk s).srcLen = s.srcLen := rfl
@[simp] theorem putWork_dstBase (wk : Work) (s : State) : (putWork wk s).dstBase = s.dstBase := rfl
@[simp] theorem putWork_written (wk : Work) (s : State) : (putWork wk s).written = s.written := rfl
@[simp] theorem putWork_later (wk : Work) (s : State) : (putWork wk s).later = s.later := rfl
@[simp] theorem putWork_status (wk : Work) (s : State) : (putWork wk s).status = s.status := rfl
@[simp] theorem putWork_cur (wk : Work) (s : State) : (putWork wk s).cur = s.cur := rfl
@[simp] theorem putWork_phase (wk : Work) (s : State) : (putWork wk s).phase = s.phase := rfl
@[simp] theorem putWork_work (wk : Work) (s : State) : (putWork wk s).work = wk := rfl
@[simp] theorem putWork_src (wk : Work) (s : State) : (putWork wk s).src = s.src := rfl
@[simp] theorem putWork_dst (wk : Work) (s : State) : (putWork wk s).dst = s.dst := rfl
@[simp] theorem putWork_interfered (wk : Work) (s : State) : (putWork wk s).interfered = s.interfered := rfl
@[simp] theorem putWork_freeNext (wk : Work) (s : State) : (putWork wk s).freeNext = s.freeNext := rfl
@[simp] theorem putWork_host (wk : Work) (s : State) : (putWork wk s).host = s.host := rfl

@[simp] theorem putDst_cfg (m : Memory) (s : State) : (putDst m s).cfg = s.cfg := rfl
@[simp] theorem putDst_format (m : Memory) (s : State) : (putDst m s).format = s.format := rfl
@[simp] theorem putDst_width (m : Memory) (s : State) : (putDst m s).width = s.width := rfl
@[simp] theorem putDst_height (m : Memory) (s : State) : (putDst m s).height = s.height := rfl
@[simp] theorem putDst_srcBase (m : Memory) (s : State) : (putDst m s).srcBase = s.srcBase := rfl
@[simp] theorem putDst_srcLen (m : Memory) (s : State) : (putDst m s).srcLen = s.srcLen := rfl
@[simp] theorem putDst_dstBase (m : Memory) (s : State) : (putDst m s).dstBase = s.dstBase := rfl
@[simp] theorem putDst_written (m : Memory) (s : State) : (putDst m s).written = s.written := rfl
@[simp] theorem putDst_later (m : Memory) (s : State) : (putDst m s).later = s.later := rfl
@[simp] theorem putDst_status (m : Memory) (s : State) : (putDst m s).status = s.status := rfl
@[simp] theorem putDst_cur (m : Memory) (s : State) : (putDst m s).cur = s.cur := rfl
@[simp] theorem putDst_phase (m : Memory) (s : State) : (putDst m s).phase = s.phase := rfl
@[simp] theorem putDst_work (m : Memory) (s : State) : (putDst m s).work = s.work := rfl
@[simp] theorem putDst_src (m : Memory) (s : State) : (putDst m s).src = s.src := rfl
@[simp] theorem putDst_dst (m : Memory) (s : State) : (putDst m s).dst = m := rfl
@[simp] theorem putDst_interfered (m : Memory) (s : State) : (putDst m s).interfered = s.interfered := rfl
@[simp] theorem putDst_freeNext (m : Memory) (s : State) : (putDst m s).freeNext = s.freeNext := rfl
@[simp] theorem putDst_host (m : Memory) (s : State) : (putDst m s).host = s.host := rfl

@[simp] theorem putSrc_cfg (m : Memory) (s : State) : (putSrc m s).cfg = s.cfg := rfl
@[simp] theorem putSrc_format (m : Memory) (s : State) : (putSrc m s).format = s.format := rfl
@[simp] theorem putSrc_width (m : Memory) (s : State) : (putSrc m s).width = s.width := rfl
@[simp] theorem putSrc_height (m : Memory) (s : State) : (putSrc m s).height = s.height := rfl
@[simp] theorem putSrc_srcBase (m : Memory) (s : State) : (putSrc m s).srcBase = s.srcBase := rfl
@[simp] theorem putSrc_srcLen (m : Memory) (s : State) : (putSrc m s).srcLen = s.srcLen := rfl
@[simp] theorem putSrc_dstBase (m : Memory) (s : State) : (putSrc m s).dstBase = s.dstBase := rfl
@[simp] theorem putSrc_written (m : Memory) (s : State) : (putSrc m s).written = s.written := rfl
@[simp] theorem putSrc_later (m : Memory) (s : State) : (putSrc m s).later = s.later := rfl
@[simp] theorem putSrc_status (m : Memory) (s : State) : (putSrc m s).status = s.status := rfl
@[simp] theorem putSrc_cur (m : Memory) (s : State) : (putSrc m s).cur = s.cur := rfl
@[simp] theorem putSrc_phase (m : Memory) (s : State) : (putSrc m s).phase = s.phase := rfl
@[simp] theorem putSrc_work (m : Memory) (s : State) : (putSrc m s).work = s.work := rfl
@[simp] theorem putSrc_src (m : Memory) (s : State) : (putSrc m s).src = m := rfl
@[simp] theorem putSrc_dst (m : Memory) (s : State) : (putSrc m s).dst = s.dst := rfl
@[simp] theorem putSrc_interfered (m : Memory) (s : State) : (putSrc m s).interfered = s.interfered := rfl
@[simp] theorem putSrc_freeNext (m : Memory) (s : State) : (putSrc m s).freeNext = s.freeNext := rfl
@[simp] theorem putSrc_host (m : Memory) (s : State) : (putSrc m s).host = s.host := rfl

@[simp] theorem putFree_cfg (n : Nat) (s : State) : (putFree n s).cfg = s.cfg := rfl
@[simp] theorem putFree_format (n : Nat) (s : State) : (putFree n s).format = s.format := rfl
@[simp] theorem putFree_width (n : Nat) (s : State) : (putFree n s).width = s.width := rfl
@[simp] theorem putFree_height (n : Nat) (s : State) : (putFree n s).height = s.height := rfl
@[simp] theorem putFree_srcBase (n : Nat) (s : State) : (putFree n s).srcBase = s.srcBase := rfl
@[simp] theorem putFree_srcLen (n : Nat) (s : State) : (putFree n s).srcLen = s.srcLen := rfl
@[simp] theorem putFree_dstBase (n : Nat) (s : State) : (putFree n s).dstBase = s.dstBase := rfl
@[simp] theorem putFree_written (n : Nat) (s : State) : (putFree n s).written = s.written := rfl
@[simp] theorem putFree_later (n : Nat) (s : State) : (putFree n s).later = s.later := rfl
@[simp] theorem putFree_status (n : Nat) (s : State) : (putFree n s).status = s.status := rfl
@[simp] theorem putFree_cur (n : Nat) (s : State) : (putFree n s).cur = s.cur := rfl
@[simp] theorem putFree_phase (n : Nat) (s : State) : (putFree n s).phase = s.phase := rfl
@[simp] theorem putFree_work (n : Nat) (s : State) : (putFree n s).work = s.work := rfl
@[simp] theorem putFree_src (n : Nat) (s : State) : (putFree n s).src = s.src := rfl
@[simp] theorem putFree_dst (n : Nat) (s : State) : (putFree n s).dst = s.dst := rfl
@[simp] theorem putFree_interfered (n : Nat) (s : State) : (putFree n s).interfered = s.interfered := rfl
@[simp] theorem putFree_freeNext (n : Nat) (s : State) : (putFree n s).freeNext = n := rfl
@[simp] theorem putFree_host (n : Nat) (s : State) : (putFree n s).host = s.host := rfl

@[simp] theorem putStatus_cfg (st : Status) (s : State) : (putStatus st s).cfg = s.cfg := rfl
@[simp] theorem putStatus_format (st : Status) (s : State) : (putStatus st s).format = s.format := rfl
@[simp] theorem putStatus_width (st : Status) (s : State) : (putStatus st s).width = s.width := rfl
@[simp] theorem putStatus_height (st : Status) (s : State) : (putStatus st s).height = s.height := rfl
@[simp] theorem putStatus_srcBase (st : Status) (s : State) : (putStatus st s).srcBase = s.srcBase := rfl
@[simp] theorem putStatus_srcLen (st : Status) (s : State) : (putStatus st s).srcLen = s.srcLen := rfl
@[simp] theorem putStatus_dstBase (st : Status) (s : State) : (putStatus st s).dstBase = s.dstBase := rfl
@[simp] theorem putStatus_written (st : Status) (s : State) : (putStatus st s).written = s.written := rfl
@[simp] theorem putStatus_later (st : Status) (s : State) : (putStatus st s).later = s.later := rfl
@[simp] theorem putStatus_status (st : Status) (s : State) : (putStatus st s).status = st := rfl
@[simp] theorem putStatus_cur (st : Status) (s : State) : (putStatus st s).cur = s.cur := rfl
@[simp] theorem putStatus_phase (st : Status) (s : State) : (putStatus st s).phase = s.phase := rfl
@[simp] theorem putStatus_work (st : Status) (s : State) : (putStatus st s).work = s.work := rfl
@[simp] theorem putStatus_src (st : Status) (s : State) : (putStatus st s).src = s.src := rfl
@[simp] theorem putStatus_dst (st : Status) (s : State) : (putStatus st s).dst = s.dst := rfl
@[simp] theorem putStatus_interfered (st : Status) (s : State) : (putStatus st s).interfered = s.interfered := rfl
@[simp] theorem putStatus_freeNext (st : Status) (s : State) : (putStatus st s).freeNext = s.freeNext := rfl
@[simp] theorem putStatus_host (st : Status) (s : State) : (putStatus st s).host = s.host := rfl

@[simp] theorem putCursor_cfg (c : Cursor) (s : State) : (putCursor c s).cfg = s.cfg := rfl
@[simp] theorem putCursor_format (c : Cursor) (s : State) : (putCursor c s).format = s.format := rfl
@[simp] theorem putCursor_width (c : Cursor) (s : State) : (putCursor c s).width = s.width := rfl
@[simp] theorem putCursor_height (c : Cursor) (s : State) : (putCursor c s).height = s.height := rfl
@[simp] theorem putCursor_srcBase (c : Cursor) (s : State) : (putCursor c s).srcBase = s.srcBase := rfl
@[simp] theorem putCursor_srcLen (c : Cursor) (s : State) : (putCursor c s).srcLen = s.srcLen := rfl
@[simp] theorem putCursor_dstBase (c : Cursor) (s : State) : (putCursor c s).dstBase = s.dstBase := rfl
@[simp] theorem putCursor_written (c : Cursor) (s : State) : (putCursor c s).written = s.written := rfl
@[simp] theorem putCursor_later (c : Cursor) (s : State) : (putCursor c s).later = s.later := rfl
@[simp] theorem putCursor_status (c : Cursor) (s : State) : (putCursor c s).status = s.status := rfl
@[simp] theorem putCursor_cur (c : Cursor) (s : State) : (putCursor c s).cur = c := rfl
@[simp] theorem putCursor_phase (c : Cursor) (s : State) : (putCursor c s).phase = s.phase := rfl
@[simp] theorem putCursor_work (c : Cursor) (s : State) : (putCursor c s).work = s.work := rfl
@[simp] theorem putCursor_src (c : Cursor) (s : State) : (putCursor c s).src = s.src := rfl
@[simp] theorem putCursor_dst (c : Cursor) (s : State) : (putCursor c s).dst = s.dst := rfl
@[simp] theorem putCursor_interfered (c : Cursor) (s : State) : (putCursor c s).interfered = s.interfered := rfl
@[simp] theorem putCursor_freeNext (c : Cursor) (s : State) : (putCursor c s).freeNext = s.freeNext := rfl
@[simp] theorem putCursor_host (c : Cursor) (s : State) : (putCursor c s).host = s.host := rfl

@[simp] theorem putPhase_cfg (p : Phase) (s : State) : (putPhase p s).cfg = s.cfg := rfl
@[simp] theorem putPhase_format (p : Phase) (s : State) : (putPhase p s).format = s.format := rfl
@[simp] theorem putPhase_width (p : Phase) (s : State) : (putPhase p s).width = s.width := rfl
@[simp] theorem putPhase_height (p : Phase) (s : State) : (putPhase p s).height = s.height := rfl
@[simp] theorem putPhase_srcBase (p : Phase) (s : State) : (putPhase p s).srcBase = s.srcBase := rfl
@[simp] theorem putPhase_srcLen (p : Phase) (s : State) : (putPhase p s).srcLen = s.srcLen := rfl
@[simp] theorem putPhase_dstBase (p : Phase) (s : State) : (putPhase p s).dstBase = s.dstBase := rfl
@[simp] theorem putPhase_written (p : Phase) (s : State) : (putPhase p s).written = s.written := rfl
@[simp] theorem putPhase_later (p : Phase) (s : State) : (putPhase p s).later = s.later := rfl
@[simp] theorem putPhase_status (p : Phase) (s : State) : (putPhase p s).status = s.status := rfl
@[simp] theorem putPhase_cur (p : Phase) (s : State) : (putPhase p s).cur = s.cur := rfl
@[simp] theorem putPhase_phase (p : Phase) (s : State) : (putPhase p s).phase = p := rfl
@[simp] theorem putPhase_work (p : Phase) (s : State) : (putPhase p s).work = s.work := rfl
@[simp] theorem putPhase_src (p : Phase) (s : State) : (putPhase p s).src = s.src := rfl
@[simp] theorem putPhase_dst (p : Phase) (s : State) : (putPhase p s).dst = s.dst := rfl
@[simp] theorem putPhase_interfered (p : Phase) (s : State) : (putPhase p s).interfered = s.interfered := rfl
@[simp] theorem putPhase_freeNext (p : Phase) (s : State) : (putPhase p s).freeNext = s.freeNext := rfl
@[simp] theorem putPhase_host (p : Phase) (s : State) : (putPhase p s).host = s.host := rfl

@[simp] theorem putInterfered_cfg (b : Bool) (s : State) : (putInterfered b s).cfg = s.cfg := rfl
@[simp] theorem putInterfered_format (b : Bool) (s : State) : (putInterfered b s).format = s.format := rfl
@[simp] theorem putInterfered_width (b : Bool) (s : State) : (putInterfered b s).width = s.width := rfl
@[simp] theorem putInterfered_height (b : Bool) (s : State) : (putInterfered b s).height = s.height := rfl
@[simp] theorem putInterfered_srcBase (b : Bool) (s : State) : (putInterfered b s).srcBase = s.srcBase := rfl
@[simp] theorem putInterfered_srcLen (b : Bool) (s : State) : (putInterfered b s).srcLen = s.srcLen := rfl
@[simp] theorem putInterfered_dstBase (b : Bool) (s : State) : (putInterfered b s).dstBase = s.dstBase := rfl
@[simp] theorem putInterfered_written (b : Bool) (s : State) : (putInterfered b s).written = s.written := rfl
@[simp] theorem putInterfered_later (b : Bool) (s : State) : (putInterfered b s).later = s.later := rfl
@[simp] theorem putInterfered_status (b : Bool) (s : State) : (putInterfered b s).status = s.status := rfl
@[simp] theorem putInterfered_cur (b : Bool) (s : State) : (putInterfered b s).cur = s.cur := rfl
@[simp] theorem putInterfered_phase (b : Bool) (s : State) : (putInterfered b s).phase = s.phase := rfl
@[simp] theorem putInterfered_work (b : Bool) (s : State) : (putInterfered b s).work = s.work := rfl
@[simp] theorem putInterfered_src (b : Bool) (s : State) : (putInterfered b s).src = s.src := rfl
@[simp] theorem putInterfered_dst (b : Bool) (s : State) : (putInterfered b s).dst = s.dst := rfl
@[simp] theorem putInterfered_interfered (b : Bool) (s : State) : (putInterfered b s).interfered = b := rfl
@[simp] theorem putInterfered_freeNext (b : Bool) (s : State) : (putInterfered b s).freeNext = s.freeNext := rfl
@[simp] theorem putInterfered_host (b : Bool) (s : State) : (putInterfered b s).host = s.host := rfl

@[simp] theorem putHost_cfg (es : List HostEvent) (s : State) : (putHost es s).cfg = s.cfg := rfl
@[simp] theorem putHost_format (es : List HostEvent) (s : State) : (putHost es s).format = s.format := rfl
@[simp] theorem putHost_width (es : List HostEvent) (s : State) : (putHost es s).width = s.width := rfl
@[simp] theorem putHost_height (es : List HostEvent) (s : State) : (putHost es s).height = s.height := rfl
@[simp] theorem putHost_srcBase (es : List HostEvent) (s : State) : (putHost es s).srcBase = s.srcBase := rfl
@[simp] theorem putHost_srcLen (es : List HostEvent) (s : State) : (putHost es s).srcLen = s.srcLen := rfl
@[simp] theorem putHost_dstBase (es : List HostEvent) (s : State) : (putHost es s).dstBase = s.dstBase := rfl
@[simp] theorem putHost_written (es : List HostEvent) (s : State) : (putHost es s).written = s.written := rfl
@[simp] theorem putHost_later (es : List HostEvent) (s : State) : (putHost es s).later = s.later := rfl
@[simp] theorem putHost_status (es : List HostEvent) (s : State) : (putHost es s).status = s.status := rfl
@[simp] theorem putHost_cur (es : List HostEvent) (s : State) : (putHost es s).cur = s.cur := rfl
@[simp] theorem putHost_phase (es : List HostEvent) (s : State) : (putHost es s).phase = s.phase := rfl
@[simp] theorem putHost_work (es : List HostEvent) (s : State) : (putHost es s).work = s.work := rfl
@[simp] theorem putHost_src (es : List HostEvent) (s : State) : (putHost es s).src = s.src := rfl
@[simp] theorem putHost_dst (es : List HostEvent) (s : State) : (putHost es s).dst = s.dst := rfl
@[simp] theorem putHost_interfered (es : List HostEvent) (s : State) : (putHost es s).interfered = s.interfered := rfl
@[simp] theorem putHost_freeNext (es : List HostEvent) (s : State) : (putHost es s).freeNext = s.freeNext := rfl
@[simp] theorem putHost_host (es : List HostEvent) (s : State) : (putHost es s).host = es := rfl
@[simp] theorem putFormat_cfg (v : BitVec 32) (s : State) : (putFormat v s).cfg = s.cfg := rfl
@[simp] theorem putFormat_format (v : BitVec 32) (s : State) : (putFormat v s).format = v := rfl
@[simp] theorem putFormat_width (v : BitVec 32) (s : State) : (putFormat v s).width = s.width := rfl
@[simp] theorem putFormat_height (v : BitVec 32) (s : State) : (putFormat v s).height = s.height := rfl
@[simp] theorem putFormat_srcBase (v : BitVec 32) (s : State) : (putFormat v s).srcBase = s.srcBase := rfl
@[simp] theorem putFormat_srcLen (v : BitVec 32) (s : State) : (putFormat v s).srcLen = s.srcLen := rfl
@[simp] theorem putFormat_dstBase (v : BitVec 32) (s : State) : (putFormat v s).dstBase = s.dstBase := rfl
@[simp] theorem putFormat_written (v : BitVec 32) (s : State) : (putFormat v s).written = s.written := rfl
@[simp] theorem putFormat_later (v : BitVec 32) (s : State) : (putFormat v s).later = s.later := rfl
@[simp] theorem putFormat_status (v : BitVec 32) (s : State) : (putFormat v s).status = s.status := rfl
@[simp] theorem putFormat_cur (v : BitVec 32) (s : State) : (putFormat v s).cur = s.cur := rfl
@[simp] theorem putFormat_phase (v : BitVec 32) (s : State) : (putFormat v s).phase = s.phase := rfl
@[simp] theorem putFormat_work (v : BitVec 32) (s : State) : (putFormat v s).work = s.work := rfl
@[simp] theorem putFormat_src (v : BitVec 32) (s : State) : (putFormat v s).src = s.src := rfl
@[simp] theorem putFormat_dst (v : BitVec 32) (s : State) : (putFormat v s).dst = s.dst := rfl
@[simp] theorem putFormat_interfered (v : BitVec 32) (s : State) : (putFormat v s).interfered = s.interfered := rfl
@[simp] theorem putFormat_freeNext (v : BitVec 32) (s : State) : (putFormat v s).freeNext = s.freeNext := rfl
@[simp] theorem putFormat_host (v : BitVec 32) (s : State) : (putFormat v s).host = s.host := rfl

@[simp] theorem refuse_cfg (e : LaunchError) (s : State) : (refuse e s).cfg = s.cfg := rfl
@[simp] theorem refuse_format (e : LaunchError) (s : State) : (refuse e s).format = s.format := rfl
@[simp] theorem refuse_width (e : LaunchError) (s : State) : (refuse e s).width = s.width := rfl
@[simp] theorem refuse_height (e : LaunchError) (s : State) : (refuse e s).height = s.height := rfl
@[simp] theorem refuse_srcBase (e : LaunchError) (s : State) : (refuse e s).srcBase = s.srcBase := rfl
@[simp] theorem refuse_srcLen (e : LaunchError) (s : State) : (refuse e s).srcLen = s.srcLen := rfl
@[simp] theorem refuse_dstBase (e : LaunchError) (s : State) : (refuse e s).dstBase = s.dstBase := rfl
@[simp] theorem refuse_written (e : LaunchError) (s : State) : (refuse e s).written = s.written := rfl
@[simp] theorem refuse_later (e : LaunchError) (s : State) : (refuse e s).later = s.later := rfl
@[simp] theorem refuse_status (e : LaunchError) (s : State) : (refuse e s).status = Status.refusedWith e := rfl
@[simp] theorem refuse_cur (e : LaunchError) (s : State) : (refuse e s).cur = s.cur := rfl
@[simp] theorem refuse_phase (e : LaunchError) (s : State) : (refuse e s).phase = s.phase := rfl
@[simp] theorem refuse_work (e : LaunchError) (s : State) : (refuse e s).work = s.work := rfl
@[simp] theorem refuse_src (e : LaunchError) (s : State) : (refuse e s).src = s.src := rfl
@[simp] theorem refuse_dst (e : LaunchError) (s : State) : (refuse e s).dst = s.dst := rfl
@[simp] theorem refuse_interfered (e : LaunchError) (s : State) : (refuse e s).interfered = s.interfered := rfl
@[simp] theorem refuse_freeNext (e : LaunchError) (s : State) : (refuse e s).freeNext = s.freeNext := rfl
@[simp] theorem refuse_host (e : LaunchError) (s : State) : (refuse e s).host = s.host := rfl

@[simp] theorem clearFlags_cfg (s : State) : (clearFlags s).cfg = s.cfg := rfl
@[simp] theorem clearFlags_format (s : State) : (clearFlags s).format = s.format := rfl
@[simp] theorem clearFlags_width (s : State) : (clearFlags s).width = s.width := rfl
@[simp] theorem clearFlags_height (s : State) : (clearFlags s).height = s.height := rfl
@[simp] theorem clearFlags_srcBase (s : State) : (clearFlags s).srcBase = s.srcBase := rfl
@[simp] theorem clearFlags_srcLen (s : State) : (clearFlags s).srcLen = s.srcLen := rfl
@[simp] theorem clearFlags_dstBase (s : State) : (clearFlags s).dstBase = s.dstBase := rfl
@[simp] theorem clearFlags_written (s : State) : (clearFlags s).written = s.written := rfl
@[simp] theorem clearFlags_later (s : State) : (clearFlags s).later = s.later := rfl
@[simp] theorem clearFlags_status (s : State) : (clearFlags s).status = Status.idle := rfl
@[simp] theorem clearFlags_cur (s : State) : (clearFlags s).cur = s.cur := rfl
@[simp] theorem clearFlags_phase (s : State) : (clearFlags s).phase = s.phase := rfl
@[simp] theorem clearFlags_work (s : State) : (clearFlags s).work = s.work := rfl
@[simp] theorem clearFlags_src (s : State) : (clearFlags s).src = s.src := rfl
@[simp] theorem clearFlags_dst (s : State) : (clearFlags s).dst = s.dst := rfl
@[simp] theorem clearFlags_interfered (s : State) : (clearFlags s).interfered = s.interfered := rfl
@[simp] theorem clearFlags_freeNext (s : State) : (clearFlags s).freeNext = s.freeNext := rfl
@[simp] theorem clearFlags_host (s : State) : (clearFlags s).host = s.host := rfl

@[simp] theorem scrambleRaster_cfg (s : State) : (scrambleRaster s).cfg = s.cfg := rfl
@[simp] theorem scrambleRaster_format (s : State) : (scrambleRaster s).format = s.format := rfl
@[simp] theorem scrambleRaster_width (s : State) : (scrambleRaster s).width = s.width := rfl
@[simp] theorem scrambleRaster_height (s : State) : (scrambleRaster s).height = s.height := rfl
@[simp] theorem scrambleRaster_srcBase (s : State) : (scrambleRaster s).srcBase = s.srcBase := rfl
@[simp] theorem scrambleRaster_srcLen (s : State) : (scrambleRaster s).srcLen = s.srcLen := rfl
@[simp] theorem scrambleRaster_dstBase (s : State) : (scrambleRaster s).dstBase = s.dstBase := rfl
@[simp] theorem scrambleRaster_written (s : State) : (scrambleRaster s).written = s.written := rfl
@[simp] theorem scrambleRaster_later (s : State) : (scrambleRaster s).later = s.later := rfl
@[simp] theorem scrambleRaster_status (s : State) : (scrambleRaster s).status = s.status := rfl
@[simp] theorem scrambleRaster_cur (s : State) : (scrambleRaster s).cur = s.cur := rfl
@[simp] theorem scrambleRaster_phase (s : State) : (scrambleRaster s).phase = s.phase := rfl
@[simp] theorem scrambleRaster_work (s : State) : (scrambleRaster s).work = s.work := rfl
@[simp] theorem scrambleRaster_src (s : State) : (scrambleRaster s).src = s.src := rfl
@[simp] theorem scrambleRaster_dst (s : State) : (scrambleRaster s).dst = scramble s.dst s.dstBase (2 ^ s.cfg.addrBits) s.freeNext (rasterPixels s) := rfl
@[simp] theorem scrambleRaster_interfered (s : State) : (scrambleRaster s).interfered = s.interfered := rfl
@[simp] theorem scrambleRaster_freeNext (s : State) : (scrambleRaster s).freeNext = s.freeNext + rasterPixels s := rfl
@[simp] theorem scrambleRaster_host (s : State) : (scrambleRaster s).host = s.host := rfl

@[simp] theorem setFormat_cfg (v : BitVec 32) (s : State) : (setFormat v s).cfg = s.cfg := rfl
@[simp] theorem setFormat_format (v : BitVec 32) (s : State) : (setFormat v s).format = v := rfl
@[simp] theorem setFormat_width (v : BitVec 32) (s : State) : (setFormat v s).width = s.width := rfl
@[simp] theorem setFormat_height (v : BitVec 32) (s : State) : (setFormat v s).height = s.height := rfl
@[simp] theorem setFormat_srcBase (v : BitVec 32) (s : State) : (setFormat v s).srcBase = s.srcBase := rfl
@[simp] theorem setFormat_srcLen (v : BitVec 32) (s : State) : (setFormat v s).srcLen = s.srcLen := rfl
@[simp] theorem setFormat_dstBase (v : BitVec 32) (s : State) : (setFormat v s).dstBase = s.dstBase := rfl
@[simp] theorem setFormat_written (v : BitVec 32) (s : State) : (setFormat v s).written = { s.written with format := true } := rfl
@[simp] theorem setFormat_later (v : BitVec 32) (s : State) : (setFormat v s).later = s.later := rfl
@[simp] theorem setFormat_status (v : BitVec 32) (s : State) : (setFormat v s).status = s.status := rfl
@[simp] theorem setFormat_cur (v : BitVec 32) (s : State) : (setFormat v s).cur = s.cur := rfl
@[simp] theorem setFormat_phase (v : BitVec 32) (s : State) : (setFormat v s).phase = s.phase := rfl
@[simp] theorem setFormat_work (v : BitVec 32) (s : State) : (setFormat v s).work = s.work := rfl
@[simp] theorem setFormat_src (v : BitVec 32) (s : State) : (setFormat v s).src = s.src := rfl
@[simp] theorem setFormat_dst (v : BitVec 32) (s : State) : (setFormat v s).dst = s.dst := rfl
@[simp] theorem setFormat_interfered (v : BitVec 32) (s : State) : (setFormat v s).interfered = s.interfered := rfl
@[simp] theorem setFormat_freeNext (v : BitVec 32) (s : State) : (setFormat v s).freeNext = s.freeNext := rfl
@[simp] theorem setFormat_host (v : BitVec 32) (s : State) : (setFormat v s).host = s.host := rfl

@[simp] theorem setWidth_cfg (v : BitVec 32) (s : State) : (setWidth v s).cfg = s.cfg := rfl
@[simp] theorem setWidth_format (v : BitVec 32) (s : State) : (setWidth v s).format = s.format := rfl
@[simp] theorem setWidth_width (v : BitVec 32) (s : State) : (setWidth v s).width = toDim s v := rfl
@[simp] theorem setWidth_height (v : BitVec 32) (s : State) : (setWidth v s).height = s.height := rfl
@[simp] theorem setWidth_srcBase (v : BitVec 32) (s : State) : (setWidth v s).srcBase = s.srcBase := rfl
@[simp] theorem setWidth_srcLen (v : BitVec 32) (s : State) : (setWidth v s).srcLen = s.srcLen := rfl
@[simp] theorem setWidth_dstBase (v : BitVec 32) (s : State) : (setWidth v s).dstBase = s.dstBase := rfl
@[simp] theorem setWidth_written (v : BitVec 32) (s : State) : (setWidth v s).written = { s.written with width := true } := rfl
@[simp] theorem setWidth_later (v : BitVec 32) (s : State) : (setWidth v s).later = s.later := rfl
@[simp] theorem setWidth_status (v : BitVec 32) (s : State) : (setWidth v s).status = s.status := rfl
@[simp] theorem setWidth_cur (v : BitVec 32) (s : State) : (setWidth v s).cur = s.cur := rfl
@[simp] theorem setWidth_phase (v : BitVec 32) (s : State) : (setWidth v s).phase = s.phase := rfl
@[simp] theorem setWidth_work (v : BitVec 32) (s : State) : (setWidth v s).work = s.work := rfl
@[simp] theorem setWidth_src (v : BitVec 32) (s : State) : (setWidth v s).src = s.src := rfl
@[simp] theorem setWidth_dst (v : BitVec 32) (s : State) : (setWidth v s).dst = s.dst := rfl
@[simp] theorem setWidth_interfered (v : BitVec 32) (s : State) : (setWidth v s).interfered = s.interfered := rfl
@[simp] theorem setWidth_freeNext (v : BitVec 32) (s : State) : (setWidth v s).freeNext = s.freeNext := rfl
@[simp] theorem setWidth_host (v : BitVec 32) (s : State) : (setWidth v s).host = s.host := rfl

@[simp] theorem setHeight_cfg (v : BitVec 32) (s : State) : (setHeight v s).cfg = s.cfg := rfl
@[simp] theorem setHeight_format (v : BitVec 32) (s : State) : (setHeight v s).format = s.format := rfl
@[simp] theorem setHeight_width (v : BitVec 32) (s : State) : (setHeight v s).width = s.width := rfl
@[simp] theorem setHeight_height (v : BitVec 32) (s : State) : (setHeight v s).height = toDim s v := rfl
@[simp] theorem setHeight_srcBase (v : BitVec 32) (s : State) : (setHeight v s).srcBase = s.srcBase := rfl
@[simp] theorem setHeight_srcLen (v : BitVec 32) (s : State) : (setHeight v s).srcLen = s.srcLen := rfl
@[simp] theorem setHeight_dstBase (v : BitVec 32) (s : State) : (setHeight v s).dstBase = s.dstBase := rfl
@[simp] theorem setHeight_written (v : BitVec 32) (s : State) : (setHeight v s).written = { s.written with height := true } := rfl
@[simp] theorem setHeight_later (v : BitVec 32) (s : State) : (setHeight v s).later = s.later := rfl
@[simp] theorem setHeight_status (v : BitVec 32) (s : State) : (setHeight v s).status = s.status := rfl
@[simp] theorem setHeight_cur (v : BitVec 32) (s : State) : (setHeight v s).cur = s.cur := rfl
@[simp] theorem setHeight_phase (v : BitVec 32) (s : State) : (setHeight v s).phase = s.phase := rfl
@[simp] theorem setHeight_work (v : BitVec 32) (s : State) : (setHeight v s).work = s.work := rfl
@[simp] theorem setHeight_src (v : BitVec 32) (s : State) : (setHeight v s).src = s.src := rfl
@[simp] theorem setHeight_dst (v : BitVec 32) (s : State) : (setHeight v s).dst = s.dst := rfl
@[simp] theorem setHeight_interfered (v : BitVec 32) (s : State) : (setHeight v s).interfered = s.interfered := rfl
@[simp] theorem setHeight_freeNext (v : BitVec 32) (s : State) : (setHeight v s).freeNext = s.freeNext := rfl
@[simp] theorem setHeight_host (v : BitVec 32) (s : State) : (setHeight v s).host = s.host := rfl

@[simp] theorem setSrcBase_cfg (v : Nat) (s : State) : (setSrcBase v s).cfg = s.cfg := rfl
@[simp] theorem setSrcBase_format (v : Nat) (s : State) : (setSrcBase v s).format = s.format := rfl
@[simp] theorem setSrcBase_width (v : Nat) (s : State) : (setSrcBase v s).width = s.width := rfl
@[simp] theorem setSrcBase_height (v : Nat) (s : State) : (setSrcBase v s).height = s.height := rfl
@[simp] theorem setSrcBase_srcBase (v : Nat) (s : State) : (setSrcBase v s).srcBase = toAddr s v := rfl
@[simp] theorem setSrcBase_srcLen (v : Nat) (s : State) : (setSrcBase v s).srcLen = s.srcLen := rfl
@[simp] theorem setSrcBase_dstBase (v : Nat) (s : State) : (setSrcBase v s).dstBase = s.dstBase := rfl
@[simp] theorem setSrcBase_written (v : Nat) (s : State) : (setSrcBase v s).written = { s.written with srcBase := true } := rfl
@[simp] theorem setSrcBase_later (v : Nat) (s : State) : (setSrcBase v s).later = s.later := rfl
@[simp] theorem setSrcBase_status (v : Nat) (s : State) : (setSrcBase v s).status = s.status := rfl
@[simp] theorem setSrcBase_cur (v : Nat) (s : State) : (setSrcBase v s).cur = s.cur := rfl
@[simp] theorem setSrcBase_phase (v : Nat) (s : State) : (setSrcBase v s).phase = s.phase := rfl
@[simp] theorem setSrcBase_work (v : Nat) (s : State) : (setSrcBase v s).work = s.work := rfl
@[simp] theorem setSrcBase_src (v : Nat) (s : State) : (setSrcBase v s).src = s.src := rfl
@[simp] theorem setSrcBase_dst (v : Nat) (s : State) : (setSrcBase v s).dst = s.dst := rfl
@[simp] theorem setSrcBase_interfered (v : Nat) (s : State) : (setSrcBase v s).interfered = s.interfered := rfl
@[simp] theorem setSrcBase_freeNext (v : Nat) (s : State) : (setSrcBase v s).freeNext = s.freeNext := rfl
@[simp] theorem setSrcBase_host (v : Nat) (s : State) : (setSrcBase v s).host = s.host := rfl

@[simp] theorem setSrcLen_cfg (v : Nat) (s : State) : (setSrcLen v s).cfg = s.cfg := rfl
@[simp] theorem setSrcLen_format (v : Nat) (s : State) : (setSrcLen v s).format = s.format := rfl
@[simp] theorem setSrcLen_width (v : Nat) (s : State) : (setSrcLen v s).width = s.width := rfl
@[simp] theorem setSrcLen_height (v : Nat) (s : State) : (setSrcLen v s).height = s.height := rfl
@[simp] theorem setSrcLen_srcBase (v : Nat) (s : State) : (setSrcLen v s).srcBase = s.srcBase := rfl
@[simp] theorem setSrcLen_srcLen (v : Nat) (s : State) : (setSrcLen v s).srcLen = toAddr s v := rfl
@[simp] theorem setSrcLen_dstBase (v : Nat) (s : State) : (setSrcLen v s).dstBase = s.dstBase := rfl
@[simp] theorem setSrcLen_written (v : Nat) (s : State) : (setSrcLen v s).written = { s.written with srcLen := true } := rfl
@[simp] theorem setSrcLen_later (v : Nat) (s : State) : (setSrcLen v s).later = s.later := rfl
@[simp] theorem setSrcLen_status (v : Nat) (s : State) : (setSrcLen v s).status = s.status := rfl
@[simp] theorem setSrcLen_cur (v : Nat) (s : State) : (setSrcLen v s).cur = s.cur := rfl
@[simp] theorem setSrcLen_phase (v : Nat) (s : State) : (setSrcLen v s).phase = s.phase := rfl
@[simp] theorem setSrcLen_work (v : Nat) (s : State) : (setSrcLen v s).work = s.work := rfl
@[simp] theorem setSrcLen_src (v : Nat) (s : State) : (setSrcLen v s).src = s.src := rfl
@[simp] theorem setSrcLen_dst (v : Nat) (s : State) : (setSrcLen v s).dst = s.dst := rfl
@[simp] theorem setSrcLen_interfered (v : Nat) (s : State) : (setSrcLen v s).interfered = s.interfered := rfl
@[simp] theorem setSrcLen_freeNext (v : Nat) (s : State) : (setSrcLen v s).freeNext = s.freeNext := rfl
@[simp] theorem setSrcLen_host (v : Nat) (s : State) : (setSrcLen v s).host = s.host := rfl

@[simp] theorem setDstBase_cfg (v : Nat) (s : State) : (setDstBase v s).cfg = s.cfg := rfl
@[simp] theorem setDstBase_format (v : Nat) (s : State) : (setDstBase v s).format = s.format := rfl
@[simp] theorem setDstBase_width (v : Nat) (s : State) : (setDstBase v s).width = s.width := rfl
@[simp] theorem setDstBase_height (v : Nat) (s : State) : (setDstBase v s).height = s.height := rfl
@[simp] theorem setDstBase_srcBase (v : Nat) (s : State) : (setDstBase v s).srcBase = s.srcBase := rfl
@[simp] theorem setDstBase_srcLen (v : Nat) (s : State) : (setDstBase v s).srcLen = s.srcLen := rfl
@[simp] theorem setDstBase_dstBase (v : Nat) (s : State) : (setDstBase v s).dstBase = toAddr s v := rfl
@[simp] theorem setDstBase_written (v : Nat) (s : State) : (setDstBase v s).written = { s.written with dstBase := true } := rfl
@[simp] theorem setDstBase_later (v : Nat) (s : State) : (setDstBase v s).later = s.later := rfl
@[simp] theorem setDstBase_status (v : Nat) (s : State) : (setDstBase v s).status = s.status := rfl
@[simp] theorem setDstBase_cur (v : Nat) (s : State) : (setDstBase v s).cur = s.cur := rfl
@[simp] theorem setDstBase_phase (v : Nat) (s : State) : (setDstBase v s).phase = s.phase := rfl
@[simp] theorem setDstBase_work (v : Nat) (s : State) : (setDstBase v s).work = s.work := rfl
@[simp] theorem setDstBase_src (v : Nat) (s : State) : (setDstBase v s).src = s.src := rfl
@[simp] theorem setDstBase_dst (v : Nat) (s : State) : (setDstBase v s).dst = s.dst := rfl
@[simp] theorem setDstBase_interfered (v : Nat) (s : State) : (setDstBase v s).interfered = s.interfered := rfl
@[simp] theorem setDstBase_freeNext (v : Nat) (s : State) : (setDstBase v s).freeNext = s.freeNext := rfl
@[simp] theorem setDstBase_host (v : Nat) (s : State) : (setDstBase v s).host = s.host := rfl

@[simp] theorem laterFormat_cfg (n : Nat) (s : State) : (laterFormat n s).cfg = s.cfg := rfl
@[simp] theorem laterFormat_format (n : Nat) (s : State) : (laterFormat n s).format = s.format := rfl
@[simp] theorem laterFormat_width (n : Nat) (s : State) : (laterFormat n s).width = s.width := rfl
@[simp] theorem laterFormat_height (n : Nat) (s : State) : (laterFormat n s).height = s.height := rfl
@[simp] theorem laterFormat_srcBase (n : Nat) (s : State) : (laterFormat n s).srcBase = s.srcBase := rfl
@[simp] theorem laterFormat_srcLen (n : Nat) (s : State) : (laterFormat n s).srcLen = s.srcLen := rfl
@[simp] theorem laterFormat_dstBase (n : Nat) (s : State) : (laterFormat n s).dstBase = s.dstBase := rfl
@[simp] theorem laterFormat_status (n : Nat) (s : State) : (laterFormat n s).status = s.status := rfl
@[simp] theorem laterFormat_cur (n : Nat) (s : State) : (laterFormat n s).cur = s.cur := rfl
@[simp] theorem laterFormat_phase (n : Nat) (s : State) : (laterFormat n s).phase = s.phase := rfl
@[simp] theorem laterFormat_work (n : Nat) (s : State) : (laterFormat n s).work = s.work := rfl
@[simp] theorem laterFormat_src (n : Nat) (s : State) : (laterFormat n s).src = s.src := rfl
@[simp] theorem laterFormat_dst (n : Nat) (s : State) : (laterFormat n s).dst = s.dst := rfl
@[simp] theorem laterFormat_interfered (n : Nat) (s : State) : (laterFormat n s).interfered = s.interfered := rfl
@[simp] theorem laterFormat_freeNext (n : Nat) (s : State) : (laterFormat n s).freeNext = s.freeNext := rfl
@[simp] theorem laterFormat_host (n : Nat) (s : State) : (laterFormat n s).host = s.host := rfl

@[simp] theorem laterWidth_cfg (n : Nat) (s : State) : (laterWidth n s).cfg = s.cfg := rfl
@[simp] theorem laterWidth_format (n : Nat) (s : State) : (laterWidth n s).format = s.format := rfl
@[simp] theorem laterWidth_width (n : Nat) (s : State) : (laterWidth n s).width = s.width := rfl
@[simp] theorem laterWidth_height (n : Nat) (s : State) : (laterWidth n s).height = s.height := rfl
@[simp] theorem laterWidth_srcBase (n : Nat) (s : State) : (laterWidth n s).srcBase = s.srcBase := rfl
@[simp] theorem laterWidth_srcLen (n : Nat) (s : State) : (laterWidth n s).srcLen = s.srcLen := rfl
@[simp] theorem laterWidth_dstBase (n : Nat) (s : State) : (laterWidth n s).dstBase = s.dstBase := rfl
@[simp] theorem laterWidth_status (n : Nat) (s : State) : (laterWidth n s).status = s.status := rfl
@[simp] theorem laterWidth_cur (n : Nat) (s : State) : (laterWidth n s).cur = s.cur := rfl
@[simp] theorem laterWidth_phase (n : Nat) (s : State) : (laterWidth n s).phase = s.phase := rfl
@[simp] theorem laterWidth_work (n : Nat) (s : State) : (laterWidth n s).work = s.work := rfl
@[simp] theorem laterWidth_src (n : Nat) (s : State) : (laterWidth n s).src = s.src := rfl
@[simp] theorem laterWidth_dst (n : Nat) (s : State) : (laterWidth n s).dst = s.dst := rfl
@[simp] theorem laterWidth_interfered (n : Nat) (s : State) : (laterWidth n s).interfered = s.interfered := rfl
@[simp] theorem laterWidth_freeNext (n : Nat) (s : State) : (laterWidth n s).freeNext = s.freeNext := rfl
@[simp] theorem laterWidth_host (n : Nat) (s : State) : (laterWidth n s).host = s.host := rfl

@[simp] theorem laterHeight_cfg (n : Nat) (s : State) : (laterHeight n s).cfg = s.cfg := rfl
@[simp] theorem laterHeight_format (n : Nat) (s : State) : (laterHeight n s).format = s.format := rfl
@[simp] theorem laterHeight_width (n : Nat) (s : State) : (laterHeight n s).width = s.width := rfl
@[simp] theorem laterHeight_height (n : Nat) (s : State) : (laterHeight n s).height = s.height := rfl
@[simp] theorem laterHeight_srcBase (n : Nat) (s : State) : (laterHeight n s).srcBase = s.srcBase := rfl
@[simp] theorem laterHeight_srcLen (n : Nat) (s : State) : (laterHeight n s).srcLen = s.srcLen := rfl
@[simp] theorem laterHeight_dstBase (n : Nat) (s : State) : (laterHeight n s).dstBase = s.dstBase := rfl
@[simp] theorem laterHeight_status (n : Nat) (s : State) : (laterHeight n s).status = s.status := rfl
@[simp] theorem laterHeight_cur (n : Nat) (s : State) : (laterHeight n s).cur = s.cur := rfl
@[simp] theorem laterHeight_phase (n : Nat) (s : State) : (laterHeight n s).phase = s.phase := rfl
@[simp] theorem laterHeight_work (n : Nat) (s : State) : (laterHeight n s).work = s.work := rfl
@[simp] theorem laterHeight_src (n : Nat) (s : State) : (laterHeight n s).src = s.src := rfl
@[simp] theorem laterHeight_dst (n : Nat) (s : State) : (laterHeight n s).dst = s.dst := rfl
@[simp] theorem laterHeight_interfered (n : Nat) (s : State) : (laterHeight n s).interfered = s.interfered := rfl
@[simp] theorem laterHeight_freeNext (n : Nat) (s : State) : (laterHeight n s).freeNext = s.freeNext := rfl
@[simp] theorem laterHeight_host (n : Nat) (s : State) : (laterHeight n s).host = s.host := rfl

@[simp] theorem laterSrcBase_cfg (n : Nat) (s : State) : (laterSrcBase n s).cfg = s.cfg := rfl
@[simp] theorem laterSrcBase_format (n : Nat) (s : State) : (laterSrcBase n s).format = s.format := rfl
@[simp] theorem laterSrcBase_width (n : Nat) (s : State) : (laterSrcBase n s).width = s.width := rfl
@[simp] theorem laterSrcBase_height (n : Nat) (s : State) : (laterSrcBase n s).height = s.height := rfl
@[simp] theorem laterSrcBase_srcBase (n : Nat) (s : State) : (laterSrcBase n s).srcBase = s.srcBase := rfl
@[simp] theorem laterSrcBase_srcLen (n : Nat) (s : State) : (laterSrcBase n s).srcLen = s.srcLen := rfl
@[simp] theorem laterSrcBase_dstBase (n : Nat) (s : State) : (laterSrcBase n s).dstBase = s.dstBase := rfl
@[simp] theorem laterSrcBase_status (n : Nat) (s : State) : (laterSrcBase n s).status = s.status := rfl
@[simp] theorem laterSrcBase_cur (n : Nat) (s : State) : (laterSrcBase n s).cur = s.cur := rfl
@[simp] theorem laterSrcBase_phase (n : Nat) (s : State) : (laterSrcBase n s).phase = s.phase := rfl
@[simp] theorem laterSrcBase_work (n : Nat) (s : State) : (laterSrcBase n s).work = s.work := rfl
@[simp] theorem laterSrcBase_src (n : Nat) (s : State) : (laterSrcBase n s).src = s.src := rfl
@[simp] theorem laterSrcBase_dst (n : Nat) (s : State) : (laterSrcBase n s).dst = s.dst := rfl
@[simp] theorem laterSrcBase_interfered (n : Nat) (s : State) : (laterSrcBase n s).interfered = s.interfered := rfl
@[simp] theorem laterSrcBase_freeNext (n : Nat) (s : State) : (laterSrcBase n s).freeNext = s.freeNext := rfl
@[simp] theorem laterSrcBase_host (n : Nat) (s : State) : (laterSrcBase n s).host = s.host := rfl

@[simp] theorem laterSrcLen_cfg (n : Nat) (s : State) : (laterSrcLen n s).cfg = s.cfg := rfl
@[simp] theorem laterSrcLen_format (n : Nat) (s : State) : (laterSrcLen n s).format = s.format := rfl
@[simp] theorem laterSrcLen_width (n : Nat) (s : State) : (laterSrcLen n s).width = s.width := rfl
@[simp] theorem laterSrcLen_height (n : Nat) (s : State) : (laterSrcLen n s).height = s.height := rfl
@[simp] theorem laterSrcLen_srcBase (n : Nat) (s : State) : (laterSrcLen n s).srcBase = s.srcBase := rfl
@[simp] theorem laterSrcLen_srcLen (n : Nat) (s : State) : (laterSrcLen n s).srcLen = s.srcLen := rfl
@[simp] theorem laterSrcLen_dstBase (n : Nat) (s : State) : (laterSrcLen n s).dstBase = s.dstBase := rfl
@[simp] theorem laterSrcLen_status (n : Nat) (s : State) : (laterSrcLen n s).status = s.status := rfl
@[simp] theorem laterSrcLen_cur (n : Nat) (s : State) : (laterSrcLen n s).cur = s.cur := rfl
@[simp] theorem laterSrcLen_phase (n : Nat) (s : State) : (laterSrcLen n s).phase = s.phase := rfl
@[simp] theorem laterSrcLen_work (n : Nat) (s : State) : (laterSrcLen n s).work = s.work := rfl
@[simp] theorem laterSrcLen_src (n : Nat) (s : State) : (laterSrcLen n s).src = s.src := rfl
@[simp] theorem laterSrcLen_dst (n : Nat) (s : State) : (laterSrcLen n s).dst = s.dst := rfl
@[simp] theorem laterSrcLen_interfered (n : Nat) (s : State) : (laterSrcLen n s).interfered = s.interfered := rfl
@[simp] theorem laterSrcLen_freeNext (n : Nat) (s : State) : (laterSrcLen n s).freeNext = s.freeNext := rfl
@[simp] theorem laterSrcLen_host (n : Nat) (s : State) : (laterSrcLen n s).host = s.host := rfl

@[simp] theorem laterDstBase_cfg (n : Nat) (s : State) : (laterDstBase n s).cfg = s.cfg := rfl
@[simp] theorem laterDstBase_format (n : Nat) (s : State) : (laterDstBase n s).format = s.format := rfl
@[simp] theorem laterDstBase_width (n : Nat) (s : State) : (laterDstBase n s).width = s.width := rfl
@[simp] theorem laterDstBase_height (n : Nat) (s : State) : (laterDstBase n s).height = s.height := rfl
@[simp] theorem laterDstBase_srcBase (n : Nat) (s : State) : (laterDstBase n s).srcBase = s.srcBase := rfl
@[simp] theorem laterDstBase_srcLen (n : Nat) (s : State) : (laterDstBase n s).srcLen = s.srcLen := rfl
@[simp] theorem laterDstBase_dstBase (n : Nat) (s : State) : (laterDstBase n s).dstBase = s.dstBase := rfl
@[simp] theorem laterDstBase_status (n : Nat) (s : State) : (laterDstBase n s).status = s.status := rfl
@[simp] theorem laterDstBase_cur (n : Nat) (s : State) : (laterDstBase n s).cur = s.cur := rfl
@[simp] theorem laterDstBase_phase (n : Nat) (s : State) : (laterDstBase n s).phase = s.phase := rfl
@[simp] theorem laterDstBase_work (n : Nat) (s : State) : (laterDstBase n s).work = s.work := rfl
@[simp] theorem laterDstBase_src (n : Nat) (s : State) : (laterDstBase n s).src = s.src := rfl
@[simp] theorem laterDstBase_dst (n : Nat) (s : State) : (laterDstBase n s).dst = s.dst := rfl
@[simp] theorem laterDstBase_interfered (n : Nat) (s : State) : (laterDstBase n s).interfered = s.interfered := rfl
@[simp] theorem laterDstBase_freeNext (n : Nat) (s : State) : (laterDstBase n s).freeNext = s.freeNext := rfl
@[simp] theorem laterDstBase_host (n : Nat) (s : State) : (laterDstBase n s).host = s.host := rfl

@[simp] theorem settle_cfg (s : State) : (settle s).cfg = s.cfg := rfl
@[simp] theorem settle_written (s : State) : (settle s).written = s.written := rfl
@[simp] theorem settle_status (s : State) : (settle s).status = s.status := rfl
@[simp] theorem settle_cur (s : State) : (settle s).cur = s.cur := rfl
@[simp] theorem settle_phase (s : State) : (settle s).phase = s.phase := rfl
@[simp] theorem settle_work (s : State) : (settle s).work = s.work := rfl
@[simp] theorem settle_src (s : State) : (settle s).src = s.src := rfl
@[simp] theorem settle_dst (s : State) : (settle s).dst = s.dst := rfl
@[simp] theorem settle_interfered (s : State) : (settle s).interfered = s.interfered := rfl
@[simp] theorem settle_freeNext (s : State) : (settle s).freeNext = s.freeNext := rfl
@[simp] theorem settle_host (s : State) : (settle s).host = s.host := rfl
@[simp] theorem settle_format (s : State) : (settle s).format = s.later.format.getD s.format := rfl
@[simp] theorem settle_width (s : State) : (settle s).width = s.later.width.getD s.width := rfl
@[simp] theorem settle_height (s : State) : (settle s).height = s.later.height.getD s.height := rfl
@[simp] theorem settle_srcBase (s : State) : (settle s).srcBase = s.later.srcBase.getD s.srcBase := rfl
@[simp] theorem settle_srcLen (s : State) : (settle s).srcLen = s.later.srcLen.getD s.srcLen := rfl
@[simp] theorem settle_dstBase (s : State) : (settle s).dstBase = s.later.dstBase.getD s.dstBase := rfl
@[simp] theorem settle_later (s : State) : (settle s).later = Later.none := rfl

/-- Where nothing was written during the command, settling changes nothing. -/
theorem settle_of_none {s : State} (h : s.later = Later.none) : settle s = s := by
  cases s
  cases h
  rfl

/-- Without interference completion is the change of `STATUS` alone. -/
theorem complete_quiet {s : State} (h : s.interfered = false) : complete s = putStatus Status.completed s := by
  unfold complete
  rw [h]
  rfl

@[simp] theorem complete_cfg (s : State) : (complete s).cfg = s.cfg := by unfold complete; split <;> rfl
@[simp] theorem complete_written (s : State) : (complete s).written = s.written := by unfold complete; split <;> rfl
@[simp] theorem complete_cur (s : State) : (complete s).cur = s.cur := by unfold complete; split <;> rfl
@[simp] theorem complete_phase (s : State) : (complete s).phase = s.phase := by unfold complete; split <;> rfl
@[simp] theorem complete_work (s : State) : (complete s).work = s.work := by unfold complete; split <;> rfl
@[simp] theorem complete_src (s : State) : (complete s).src = s.src := by unfold complete; split <;> rfl
@[simp] theorem complete_host (s : State) : (complete s).host = s.host := by unfold complete; split <;> rfl
@[simp] theorem complete_status (s : State) : (complete s).status = Status.completed := by unfold complete; split <;> rfl
@[simp] theorem complete_interfered (s : State) : (complete s).interfered = false := by
  unfold complete
  split
  · rfl
  · rename_i h; simpa using h

/-- Completion touches DST only where premise `P-excl` was broken. -/
theorem complete_dst (s : State) : (complete s).dst =
    if s.interfered then scramble s.dst s.dstBase (2 ^ s.cfg.addrBits) s.freeNext (rasterPixels s) else s.dst := by
  unfold complete; split <;> rfl

theorem complete_freeNext (s : State) :
    (complete s).freeNext = if s.interfered then s.freeNext + rasterPixels s else s.freeNext := by
  unfold complete; split <;> rfl

@[simp] theorem noteTouch_cfg (b : Bool) (s : State) : (noteTouch b s).cfg = s.cfg := by unfold noteTouch; split <;> rfl
@[simp] theorem noteTouch_format (b : Bool) (s : State) : (noteTouch b s).format = s.format := by unfold noteTouch; split <;> rfl
@[simp] theorem noteTouch_width (b : Bool) (s : State) : (noteTouch b s).width = s.width := by unfold noteTouch; split <;> rfl
@[simp] theorem noteTouch_height (b : Bool) (s : State) : (noteTouch b s).height = s.height := by unfold noteTouch; split <;> rfl
@[simp] theorem noteTouch_srcBase (b : Bool) (s : State) : (noteTouch b s).srcBase = s.srcBase := by unfold noteTouch; split <;> rfl
@[simp] theorem noteTouch_srcLen (b : Bool) (s : State) : (noteTouch b s).srcLen = s.srcLen := by unfold noteTouch; split <;> rfl
@[simp] theorem noteTouch_dstBase (b : Bool) (s : State) : (noteTouch b s).dstBase = s.dstBase := by unfold noteTouch; split <;> rfl
@[simp] theorem noteTouch_written (b : Bool) (s : State) : (noteTouch b s).written = s.written := by unfold noteTouch; split <;> rfl
@[simp] theorem noteTouch_later (b : Bool) (s : State) : (noteTouch b s).later = s.later := by unfold noteTouch; split <;> rfl
@[simp] theorem noteTouch_status (b : Bool) (s : State) : (noteTouch b s).status = s.status := by unfold noteTouch; split <;> rfl
@[simp] theorem noteTouch_cur (b : Bool) (s : State) : (noteTouch b s).cur = s.cur := by unfold noteTouch; split <;> rfl
@[simp] theorem noteTouch_phase (b : Bool) (s : State) : (noteTouch b s).phase = s.phase := by unfold noteTouch; split <;> rfl
@[simp] theorem noteTouch_work (b : Bool) (s : State) : (noteTouch b s).work = s.work := by unfold noteTouch; split <;> rfl
@[simp] theorem noteTouch_src (b : Bool) (s : State) : (noteTouch b s).src = s.src := by unfold noteTouch; split <;> rfl
@[simp] theorem noteTouch_dst (b : Bool) (s : State) : (noteTouch b s).dst = s.dst := by unfold noteTouch; split <;> rfl
@[simp] theorem noteTouch_freeNext (b : Bool) (s : State) : (noteTouch b s).freeNext = s.freeNext := by unfold noteTouch; split <;> rfl
@[simp] theorem noteTouch_host (b : Bool) (s : State) : (noteTouch b s).host = s.host := by unfold noteTouch; split <;> rfl

@[simp] theorem resetMachine_cfg (s : State) : (resetMachine s).cfg = s.cfg := rfl
@[simp] theorem resetMachine_format (s : State) : (resetMachine s).format = State.reset.format := rfl
@[simp] theorem resetMachine_width (s : State) : (resetMachine s).width = State.reset.width := rfl
@[simp] theorem resetMachine_height (s : State) : (resetMachine s).height = State.reset.height := rfl
@[simp] theorem resetMachine_srcBase (s : State) : (resetMachine s).srcBase = State.reset.srcBase := rfl
@[simp] theorem resetMachine_srcLen (s : State) : (resetMachine s).srcLen = State.reset.srcLen := rfl
@[simp] theorem resetMachine_dstBase (s : State) : (resetMachine s).dstBase = State.reset.dstBase := rfl
@[simp] theorem resetMachine_written (s : State) : (resetMachine s).written = State.reset.written := rfl
@[simp] theorem resetMachine_later (s : State) : (resetMachine s).later = State.reset.later := rfl
@[simp] theorem resetMachine_status (s : State) : (resetMachine s).status = State.reset.status := rfl
@[simp] theorem resetMachine_cur (s : State) : (resetMachine s).cur = State.reset.cur := rfl
@[simp] theorem resetMachine_phase (s : State) : (resetMachine s).phase = State.reset.phase := rfl
@[simp] theorem resetMachine_work (s : State) : (resetMachine s).work = State.reset.work := rfl
@[simp] theorem resetMachine_src (s : State) : (resetMachine s).src = s.src := rfl
@[simp] theorem resetMachine_interfered (s : State) : (resetMachine s).interfered = State.reset.interfered := rfl
@[simp] theorem resetMachine_host (s : State) : (resetMachine s).host = s.host := rfl

/-- A store ends in a next state exactly when the whole tile exists. -/
theorem storeTile_next_iff (m : Memory) (s t : State) :
    storeTile m s = .next t ↔ tileInRange s ∧ t = putDst m s := by
  unfold storeTile
  split
  · rename_i h; simp [h, eq_comm]
  · rename_i h; simp [h]

/-- Where the whole tile exists, a store ends in the state with the new DST. -/
theorem storeTile_of_inRange {m : Memory} {s : State} (h : tileInRange s) : storeTile m s = .next (putDst m s) := if_pos h

/-- Where it does not, the fault names the reason. -/
theorem storeTile_of_not_inRange {m : Memory} {s : State} (h : ¬ tileInRange s) :
    storeTile m s = .fault .dstOutOfRange := if_neg h

end Sys2Proof.Machine
end

