-- ==== Sys2Proof/Laws/Tile.lean ====
section
/-! SUPPORT. The geometry of a tile: ordinals and positions, different positions are different pixels, and what a tile
of stores leaves in DST. -/

namespace Sys2Proof.Machine

theorem mem_ordinals {k : Nat} : k ∈ ordinals ↔ k < 16 := List.mem_range

theorem colOf_lt (o : PixelOrder) {k : Nat} (h : k < 16) : colOf o k < 4 := by cases o <;> simp only [colOf] <;> omega

theorem rowOf_lt (o : PixelOrder) {k : Nat} (h : k < 16) : rowOf o k < 4 := by cases o <;> simp only [rowOf] <;> omega

/-- A position determines its ordinal. -/
theorem ordinal_ext (o : PixelOrder) {j k : Nat} (hx : colOf o j = colOf o k) (hy : rowOf o j = rowOf o k) : j = k := by
  cases o <;> simp only [colOf, rowOf] at hx hy <;> omega

/-- Every position is some ordinal's. -/
theorem exists_ordinal (o : PixelOrder) {x y : Nat} (hx : x < 4) (hy : y < 4) :
    ∃ k, k < 16 ∧ colOf o k = x ∧ rowOf o k = y := by
  cases o
  · exact ⟨4 * y + x, by omega, by simp only [colOf]; omega, by simp only [rowOf]; omega⟩
  · exact ⟨4 * x + y, by omega, by simp only [colOf]; omega, by simp only [rowOf]; omega⟩

/-- With a stride of at least 4, different positions of a tile are different pixels. -/
theorem tilePixel_inj (s : State) (hw : 4 ≤ s.width.toNat) {x y x' y' : Nat} (hx : x < 4) (hx' : x' < 4)
    (h : tilePixel s x y = tilePixel s x' y') : x = x' ∧ y = y' := by
  unfold tilePixel at h
  have hy : y = y' := by
    rcases Nat.lt_trichotomy y y' with hlt | heq | hgt
    · have := Nat.mul_le_mul_right s.width.toNat (Nat.succ_le_of_lt hlt)
      rw [Nat.succ_mul] at this
      omega
    · exact heq
    · have := Nat.mul_le_mul_right s.width.toNat (Nat.succ_le_of_lt hgt)
      rw [Nat.succ_mul] at this
      omega
  subst hy
  exact ⟨by omega, rfl⟩

/-- The last position is the highest pixel of the tile. -/
theorem tilePixel_le (s : State) {x y : Nat} (hx : x < 4) (hy : y < 4) : tilePixel s x y ≤ tilePixel s 3 3 := by
  unfold tilePixel
  have := Nat.mul_le_mul_right s.width.toNat (show y ≤ 3 by omega)
  omega

/-- Stores at all ordinals' positions go to different pixels. -/
theorem nodup_tile {α : Type} (s : State) (o : PixelOrder) (f : Nat → α) (hw : 4 ≤ s.width.toNat) :
    ((ordinals.map fun k => (tilePixel s (colOf o k) (rowOf o k), f k)).map Prod.fst).Nodup := by
  rw [List.map_map]
  refine List.Nodup.map_on ?_ List.nodup_range
  intro j hj k hk h
  have hj := mem_ordinals.1 hj
  have hk := mem_ordinals.1 hk
  obtain ⟨hx, hy⟩ := tilePixel_inj s hw (colOf_lt o hj) (colOf_lt o hk) h
  exact ordinal_ext o hx hy

/-- A colour tile: ordinal `k`'s pixel holds ordinal `k`'s colour. -/
theorem readPixel_colorStores (s : State) (op : Rgb Bool) (draw : Nat) (hw : 4 ≤ s.width.toNat) {k : Nat} (hk : k < 16) :
    readPixel (writePixels s.dst (colorStores s op draw))
      (tilePixel s (colOf s.cfg.pixelOrder k) (rowOf s.cfg.pixelOrder k)) = colorPixel s.cfg s.work op draw k :=
  readPixel_writePixels_mem _ _ (_, _) (nodup_tile s _ _ hw)
    (List.mem_map.2 ⟨k, mem_ordinals.2 hk, rfl⟩)

/-- A planar tile: each position holds its interpolated colour. -/
theorem readPixel_planarStores (s : State) (hw : 4 ≤ s.width.toNat) {i j : Nat} (hi : i < 4) (hj : j < 4) :
    readPixel (writePixels s.dst (planarStores s)) (tilePixel s i j) = planarPixel s.cfg s.work i j := by
  refine readPixel_writePixels_mem _ _ (_, _) (nodup_tile s .rowMajor _ hw) (List.mem_map.2 ⟨4 * j + i, ?_, ?_⟩)
  · exact mem_ordinals.2 (by omega)
  · rw [show (4 * j + i) % 4 = i by omega, show (4 * j + i) / 4 = j by omega]
    rfl

/-- An alpha tile: ordinal `p`'s pixel keeps its colour and gets ordinal `p`'s alpha. -/
theorem readPixel_alphaStores (s : State) (sels : BitVec 48) (hw : 4 ≤ s.width.toNat) {p : Nat} (hp : p < 16) :
    readPixel (updateAlphas s.cfg.pixelLayout s.dst (alphaStores s sels))
      (tilePixel s (colOf s.cfg.pixelOrder p) (rowOf s.cfg.pixelOrder p)) =
    withAlpha s.cfg.pixelLayout (readPixel s.dst (tilePixel s (colOf s.cfg.pixelOrder p) (rowOf s.cfg.pixelOrder p)))
      (alphaValue s.cfg s.work.abase s.work.amul s.work.atbl (selector sels p)) :=
  readPixel_updateAlphas_mem _ _ _ (_, _) (nodup_tile s _ _ hw) (List.mem_map.2 ⟨p, mem_ordinals.2 hp, rfl⟩)

theorem load_colorStores (sp : Space) (s : State) (op : Rgb Bool) (draw a : Nat) (h : outsideTile s a) :
    Memory.load sp (writePixels s.dst (colorStores s op draw)) a = Memory.load sp s.dst a := by
  refine load_writePixels_other sp _ _ _ fun q hq => ?_
  obtain ⟨k, hk, rfl⟩ := List.mem_map.1 hq
  have hk := mem_ordinals.1 hk
  exact (h _ _ (colOf_lt _ hk) (rowOf_lt _ hk)).symm

theorem load_planarStores (sp : Space) (s : State) (a : Nat) (h : outsideTile s a) :
    Memory.load sp (writePixels s.dst (planarStores s)) a = Memory.load sp s.dst a := by
  refine load_writePixels_other sp _ _ _ fun q hq => ?_
  obtain ⟨k, hk, rfl⟩ := List.mem_map.1 hq
  have hk := mem_ordinals.1 hk
  exact (h _ _ (by omega) (by omega)).symm

theorem load_alphaStores (sp : Space) (s : State) (sels : BitVec 48) (a : Nat) (h : outsideTile s a) :
    Memory.load sp (updateAlphas s.cfg.pixelLayout s.dst (alphaStores s sels)) a = Memory.load sp s.dst a := by
  refine load_updateAlphas_other _ sp _ _ _ fun q hq => ?_
  obtain ⟨k, hk, rfl⟩ := List.mem_map.1 hq
  have hk := mem_ordinals.1 hk
  exact (h _ _ (colOf_lt _ hk) (rowOf_lt _ hk)).symm

end Sys2Proof.Machine
end

