-- ==== Sys2Proof/Laws/Step.lean ====
section
/-! SUPPORT. What one step can do: the field lemmas of the sequencer's operations, one lemma per kind of `exec`, and the
inversion of `step`. -/

namespace Sys2Proof.Machine

/-! ### The walk, in numbers -/

theorem fetchAddr_eq (s : State) : fetchAddr s =
    match s.phase with
    | .color => if hasAlpha s then s.cur.srcPtr + 8 else s.cur.srcPtr
    | .alpha => s.cur.srcPtr := rfl

theorem nextCursor_eq (s : State) : nextCursor s =
    if s.cur.tx + 1 < s.width.toNat / 4 then
      { srcPtr := s.cur.srcPtr + recBytes s, dstPtr := s.cur.dstPtr + 4, tx := s.cur.tx + 1, ty := s.cur.ty }
    else
      { srcPtr := s.cur.srcPtr + recBytes s, dstPtr := s.cur.dstPtr + 4 + 3 * s.width.toNat, tx := 0, ty := s.cur.ty + 1 } :=
  rfl

theorem tileDone_eq (s : State) : tileDone s =
    if (nextCursor s).ty < s.height.toNat / 4 then putPhase .color (putCursor (nextCursor s) s)
    else complete (putPhase .color (putCursor (nextCursor s) s)) := rfl

/-! ### Fields -/

@[simp] theorem fetched_cfg (s : State) : (fetched s).cfg = s.cfg := rfl
@[simp] theorem fetched_format (s : State) : (fetched s).format = s.format := rfl
@[simp] theorem fetched_width (s : State) : (fetched s).width = s.width := rfl
@[simp] theorem fetched_height (s : State) : (fetched s).height = s.height := rfl
@[simp] theorem fetched_srcBase (s : State) : (fetched s).srcBase = s.srcBase := rfl
@[simp] theorem fetched_srcLen (s : State) : (fetched s).srcLen = s.srcLen := rfl
@[simp] theorem fetched_dstBase (s : State) : (fetched s).dstBase = s.dstBase := rfl
@[simp] theorem fetched_written (s : State) : (fetched s).written = s.written := rfl
@[simp] theorem fetched_later (s : State) : (fetched s).later = s.later := rfl
@[simp] theorem fetched_status (s : State) : (fetched s).status = s.status := rfl
@[simp] theorem fetched_cur (s : State) : (fetched s).cur = s.cur := rfl
@[simp] theorem fetched_phase (s : State) : (fetched s).phase = s.phase := rfl
@[simp] theorem fetched_src (s : State) : (fetched s).src = s.src := rfl
@[simp] theorem fetched_dst (s : State) : (fetched s).dst = s.dst := rfl
@[simp] theorem fetched_interfered (s : State) : (fetched s).interfered = s.interfered := rfl
@[simp] theorem fetched_freeNext (s : State) : (fetched s).freeNext = if s.interfered then s.freeNext + 1 else s.freeNext := rfl
@[simp] theorem fetched_host (s : State) : (fetched s).host = s.host := rfl

@[simp] theorem tileDone_cfg (s : State) : (tileDone s).cfg = s.cfg := by unfold tileDone; split <;> simp
@[simp] theorem tileDone_written (s : State) : (tileDone s).written = s.written := by unfold tileDone; split <;> simp
@[simp] theorem tileDone_work (s : State) : (tileDone s).work = s.work := by unfold tileDone; split <;> simp
@[simp] theorem tileDone_src (s : State) : (tileDone s).src = s.src := by unfold tileDone; split <;> simp
@[simp] theorem tileDone_host (s : State) : (tileDone s).host = s.host := by unfold tileDone; split <;> simp
@[simp] theorem wordDone_cfg (s : State) : (wordDone s).cfg = s.cfg := by unfold wordDone; split <;> simp
@[simp] theorem wordDone_written (s : State) : (wordDone s).written = s.written := by unfold wordDone; split <;> simp
@[simp] theorem wordDone_work (s : State) : (wordDone s).work = s.work := by unfold wordDone; split <;> simp
@[simp] theorem wordDone_src (s : State) : (wordDone s).src = s.src := by unfold wordDone; split <;> simp
@[simp] theorem wordDone_host (s : State) : (wordDone s).host = s.host := by unfold wordDone; split <;> simp
@[simp] theorem afterInstr_cfg (i : Instr) (s : State) : (afterInstr i s).cfg = s.cfg := by unfold afterInstr; split <;> simp
@[simp] theorem afterInstr_written (i : Instr) (s : State) : (afterInstr i s).written = s.written := by unfold afterInstr; split <;> simp
@[simp] theorem afterInstr_work (i : Instr) (s : State) : (afterInstr i s).work = s.work := by unfold afterInstr; split <;> simp
@[simp] theorem afterInstr_src (i : Instr) (s : State) : (afterInstr i s).src = s.src := by unfold afterInstr; split <;> simp
@[simp] theorem afterInstr_host (i : Instr) (s : State) : (afterInstr i s).host = s.host := by unfold afterInstr; split <;> simp
@[simp] theorem beginCommand_cfg (s : State) : (beginCommand s).cfg = s.cfg := rfl
@[simp] theorem beginCommand_format (s : State) : (beginCommand s).format = s.format := rfl
@[simp] theorem beginCommand_width (s : State) : (beginCommand s).width = s.width := rfl
@[simp] theorem beginCommand_height (s : State) : (beginCommand s).height = s.height := rfl
@[simp] theorem beginCommand_srcBase (s : State) : (beginCommand s).srcBase = s.srcBase := rfl
@[simp] theorem beginCommand_srcLen (s : State) : (beginCommand s).srcLen = s.srcLen := rfl
@[simp] theorem beginCommand_dstBase (s : State) : (beginCommand s).dstBase = s.dstBase := rfl
@[simp] theorem beginCommand_written (s : State) : (beginCommand s).written = s.written := rfl
@[simp] theorem beginCommand_later (s : State) : (beginCommand s).later = s.later := rfl
@[simp] theorem beginCommand_work (s : State) : (beginCommand s).work = s.work := rfl
@[simp] theorem beginCommand_src (s : State) : (beginCommand s).src = s.src := rfl
@[simp] theorem beginCommand_dst (s : State) : (beginCommand s).dst = s.dst := rfl
@[simp] theorem beginCommand_freeNext (s : State) : (beginCommand s).freeNext = s.freeNext := rfl
@[simp] theorem beginCommand_host (s : State) : (beginCommand s).host = s.host := rfl
@[simp] theorem beginCommand_status (s : State) : (beginCommand s).status = Status.running := rfl
@[simp] theorem beginCommand_cur (s : State) : (beginCommand s).cur = firstTile s := rfl
@[simp] theorem beginCommand_phase (s : State) : (beginCommand s).phase = .color := rfl
@[simp] theorem beginCommand_interfered (s : State) : (beginCommand s).interfered = false := rfl
/-- An image of no tiles completes without interference. -/
@[simp] theorem complete_beginCommand (s : State) :
    complete (beginCommand s) = putStatus Status.completed (beginCommand s) := complete_quiet rfl

@[simp] theorem accept_cfg (s : State) : (accept s).cfg = s.cfg := by unfold accept; split <;> simp
@[simp] theorem accept_format (s : State) : (accept s).format = s.format := by unfold accept; split <;> simp
@[simp] theorem accept_width (s : State) : (accept s).width = s.width := by unfold accept; split <;> simp
@[simp] theorem accept_height (s : State) : (accept s).height = s.height := by unfold accept; split <;> simp
@[simp] theorem accept_srcBase (s : State) : (accept s).srcBase = s.srcBase := by unfold accept; split <;> simp
@[simp] theorem accept_srcLen (s : State) : (accept s).srcLen = s.srcLen := by unfold accept; split <;> simp
@[simp] theorem accept_dstBase (s : State) : (accept s).dstBase = s.dstBase := by unfold accept; split <;> simp
@[simp] theorem accept_written (s : State) : (accept s).written = s.written := by unfold accept; split <;> simp
@[simp] theorem accept_later (s : State) : (accept s).later = s.later := by unfold accept; split <;> simp
@[simp] theorem accept_work (s : State) : (accept s).work = s.work := by unfold accept; split <;> simp
@[simp] theorem accept_src (s : State) : (accept s).src = s.src := by unfold accept; split <;> simp
@[simp] theorem accept_host (s : State) : (accept s).host = s.host := by unfold accept; split <;> simp
@[simp] theorem launch_cfg (s : State) : (launch s).cfg = s.cfg := by unfold launch; split <;> simp
@[simp] theorem launch_format (s : State) : (launch s).format = s.format := by unfold launch; split <;> simp
@[simp] theorem launch_width (s : State) : (launch s).width = s.width := by unfold launch; split <;> simp
@[simp] theorem launch_height (s : State) : (launch s).height = s.height := by unfold launch; split <;> simp
@[simp] theorem launch_srcBase (s : State) : (launch s).srcBase = s.srcBase := by unfold launch; split <;> simp
@[simp] theorem launch_srcLen (s : State) : (launch s).srcLen = s.srcLen := by unfold launch; split <;> simp
@[simp] theorem launch_dstBase (s : State) : (launch s).dstBase = s.dstBase := by unfold launch; split <;> simp
@[simp] theorem launch_written (s : State) : (launch s).written = s.written := by unfold launch; split <;> simp
@[simp] theorem launch_later (s : State) : (launch s).later = s.later := by unfold launch; split <;> simp
@[simp] theorem launch_work (s : State) : (launch s).work = s.work := by unfold launch; split <;> simp
@[simp] theorem launch_src (s : State) : (launch s).src = s.src := by unfold launch; split <;> simp
@[simp] theorem launch_host (s : State) : (launch s).host = s.host := by unfold launch; split <;> simp

/-- Acceptance leaves DST alone, an image of no tiles included. -/
@[simp] theorem accept_dst (s : State) : (accept s).dst = s.dst := by unfold accept; split <;> simp

/-- A launch leaves DST alone. -/
@[simp] theorem launch_dst (s : State) : (launch s).dst = s.dst := by unfold launch; split <;> simp

/-! ### The configuration registers through a tile's end -/

theorem complete_sameConfig {s : State} (h : s.interfered = false) : sameConfig s (complete s) := by
  rw [complete_quiet h]
  exact ⟨rfl, rfl, rfl, rfl, rfl, rfl, rfl, rfl, rfl⟩

/-- Without interference the end of a word changes no configuration register. -/
theorem wordDone_sameConfig {s : State} (h : s.interfered = false) : sameConfig s (wordDone s) := by
  unfold wordDone tileDone
  split
  · exact ⟨rfl, rfl, rfl, rfl, rfl, rfl, rfl, rfl, rfl⟩
  · split
    · exact ⟨rfl, rfl, rfl, rfl, rfl, rfl, rfl, rfl, rfl⟩
    · exact complete_sameConfig (s := putPhase .color (putCursor (nextCursor s) s)) h

theorem complete_hostRead (s : State) {r : HostReg} (hr : r ≠ .status) : hostRead (complete s) r = hostRead s r := by
  unfold complete
  split
  · cases r <;> first | rfl | exact absurd rfl hr
  · cases r <;> first | rfl | exact absurd rfl hr

/-- The end of a word never changes what the host reads of a register other than `STATUS`, interference or not. -/
theorem wordDone_hostRead (s : State) {r : HostReg} (hr : r ≠ .status) : hostRead (wordDone s) r = hostRead s r := by
  unfold wordDone tileDone
  split
  · cases r <;> rfl
  · split
    · cases r <;> rfl
    · rw [complete_hostRead _ hr]
      cases r <;> rfl

/-! ### What an instruction can do -/

/-- A word operation stores in the tile and nowhere else, changes only working values, DST and the free-value counter,
and stops only where the tile does not exist. -/
theorem exec_word_cases (i : Instr) (s : State) (hi : i.kind ≠ .command) :
    (¬ tileInRange s ∧ exec i s = .fault .dstOutOfRange) ∨
    (tileInRange s ∧ ∃ wk n m, exec i s = .next (putDst m (putFree n (putWork wk s))) ∧
      (Memory.wf s.dst = true → Memory.wf m = true) ∧
      ∀ sp a, outsideTile s a → Memory.load sp m a = Memory.load sp s.dst a) := by
  by_cases h : tileInRange s
  · refine .inr ⟨h, ?_⟩
    cases i with
    | cwIndiv f =>
      exact ⟨indivWork s.cfg f s.work, s.freeNext, _, storeTile_of_inRange (s := putWork _ s) h, writePixels_wf _ _,
        fun sp a ha => load_colorStores sp (putWork _ s) _ _ a ha⟩
    | cwPlanar f =>
      exact ⟨planarWork f s.work, s.freeNext, _, storeTile_of_inRange (s := putWork _ s) h, writePixels_wf _ _,
        fun sp a ha => load_planarStores sp (putWork _ s) a ha⟩
    | cwDiff f =>
      exact ⟨_, _, _, storeTile_of_inRange h, writePixels_wf _ _,
        fun sp a ha => load_colorStores sp (putFree _ (putWork _ s)) _ _ a ha⟩
    | awAlpha f =>
      exact ⟨alphaWork f s.work, s.freeNext, _, storeTile_of_inRange (s := putWork _ s) h, updateAlphas_wf _ _ _,
        fun sp a ha => load_alphaStores sp (putWork _ s) _ a ha⟩
    | decode => exact absurd rfl hi
  · refine .inl ⟨h, ?_⟩
    cases i with
    | cwIndiv f => exact storeTile_of_not_inRange h
    | cwPlanar f => exact storeTile_of_not_inRange h
    | cwDiff f => exact storeTile_of_not_inRange h
    | awAlpha f => exact storeTile_of_not_inRange h
    | decode => exact absurd rfl hi

/-- The command is ignored while BUSY, else refused for the first check that fails, else accepted. -/
theorem execDecode_cases (s : State) :
    (s.status.busy = true ∧ execDecode s = .next s) ∨
    (s.status.busy = false ∧ ∃ e, launchCheck (clearFlags s) = some e ∧
      execDecode s = .next (refuse e (clearFlags s))) ∨
    (s.status.busy = false ∧ launchCheck (clearFlags s) = none ∧ execDecode s = .next (accept (clearFlags s))) := by
  unfold execDecode launch
  cases hb : s.status.busy with
  | true => simp
  | false => cases hc : launchCheck (clearFlags s) <;> simp

/-- The launch checks pass exactly when the command is legal. -/
theorem launchCheck_none_iff (s : State) : launchCheck s = none ↔ s.launchLegal := by
  constructor
  · intro h
    unfold launchCheck at h
    split at h
    · cases h
    · split at h
      · cases h
      · split at h
        · cases h
        · exact ⟨not_not.1 ‹_›, not_not.1 ‹_›, Nat.not_lt.1 ‹_›⟩
  · rintro ⟨h1, h2, h3⟩
    rw [launchCheck, if_neg (not_not.2 h1), if_neg (not_not.2 h2), if_neg (Nat.not_lt.2 h3)]

/-- A fetched word is a word operation, never the command. -/
theorem fetchInstr_kind (s : State) : (fetchInstr s).kind ≠ .command := by
  unfold fetchInstr decodeColor decodeAlpha
  cases s.phase with
  | alpha => simp [Instr.kind]
  | color => cases dispatchMode s.cfg.layoutColorLo (normC (fetchWord s)) <;> simp [Instr.kind]

/-- After a word operation the step adds `wordDone`. -/
theorem afterInstr_word (i : Instr) (s : State) (hi : i.kind ≠ .command) : afterInstr i s = wordDone s := by
  unfold afterInstr
  cases h : i.kind with
  | command => exact absurd h hi
  | color => rfl
  | alpha => rfl

/-! ### What a step can do -/

/-- The decoder's turn ends in a next state `t` in one of two ways: idle and unchanged, or one word executed. -/
inductive DecoderStep (s t : State) : Prop where
  | idle (hb : s.status.busy = false) (h : t = s)
  | word (hb : s.status.busy = true) (hf : fetchInRange s) (hr : tileInRange s) (wk : Work) (n : Nat) (m : Memory)
      (hx : exec (fetchInstr s) (fetched s) = .next (putDst m (putFree n (putWork wk (fetched s)))))
      (hwf : Memory.wf s.dst = true → Memory.wf m = true)
      (hm : ∀ sp a, outsideTile s a → Memory.load sp m a = Memory.load sp s.dst a)
      (h : t = wordDone (putDst m (putFree n (putWork wk (fetched s)))))

theorem decoderStep_of_next {s t : State} (h : runPlan (decoderPlan s) = .next t) : DecoderStep s t := by
  unfold decoderPlan at h
  split at h
  · rename_i hb
    split at h
    · rename_i hf
      have hk := fetchInstr_kind s
      rcases exec_word_cases (fetchInstr s) (fetched s) hk with ⟨-, hx⟩ | ⟨hr, wk, n, m, hx, hwf, hm⟩
      · simp [runPlan, afterOutcome, hx] at h
      · simp only [runPlan, afterOutcome, hx, afterInstr_word _ _ hk, Host.Outcome.next.injEq] at h
        exact .word hb hf hr wk n m hx hwf hm h.symm
    · simp [runPlan] at h
  · rename_i hb
    simp only [runPlan, Host.Outcome.next.injEq] at h
    exact .idle (by simpa using hb) h.symm

/-- A configuration register write of the host. -/
inductive ConfigStep (s t : State) : Prop where
  | format (v : BitVec 32) (h : t = setFormat v s)
  | width (v : BitVec 32) (h : t = setWidth v s)
  | height (v : BitVec 32) (h : t = setHeight v s)
  | srcBase (v : Nat) (h : t = setSrcBase v s)
  | srcLen (v : Nat) (h : t = setSrcLen v s)
  | dstBase (v : Nat) (h : t = setDstBase v s)

/-- A configuration register write of the host during a command, drawing the free value `n`. -/
inductive LaterStep (n : Nat) (s t : State) : Prop where
  | format (h : t = laterFormat n s)
  | width (h : t = laterWidth n s)
  | height (h : t = laterHeight n s)
  | srcBase (h : t = laterSrcBase n s)
  | srcLen (h : t = laterSrcLen n s)
  | dstBase (h : t = laterDstBase n s)

/-- Everything a step that ends in a next state `t` can have done from `s`, the host's queue already taken off: the
decoder's turn, a launch, a write with no effect, a configuration write while idle or while busy, a memory access of the
host, or a reset. -/
inductive Move (s t : State) : Prop where
  | decoder (h : DecoderStep s t)
  | launch (h : execDecode s = .next t)
  | nothing (h : t = s)
  | config (hb : s.status.busy = false) (h : ConfigStep s t)
  | disturb (hb : s.status.busy = true) (u : State) (hu : LaterStep (Config.freeRegister s.freeNext) s u)
      (h : t = putInterfered true (putFree (s.freeNext + 1) u))
  | writeSrc (a : Nat) (v : Byte) (ha : a < 2 ^ s.cfg.addrBits)
      (h : t = putSrc (Memory.write s.src a v) (noteTouch (decide (inSource s a)) s))
  | writeDst (p : Nat) (v : Pixel) (hp : p < 2 ^ s.cfg.addrBits)
      (h : t = putDst (writePixel s.dst p v) (noteTouch (decide (inRaster s p)) s))
  | readDst (p : Nat) (hp : p < 2 ^ s.cfg.addrBits) (h : t = noteTouch (decide (inRaster s p)) s)
  | reset (h : t = resetMachine s)

/-- A configuration write takes effect while idle, and disturbs the command while busy. -/
theorem configWrite_move {now : State → State} {later : Nat → State → State} {s t : State}
    (hn : ConfigStep s (now s)) (hl : LaterStep (Config.freeRegister s.freeNext) s (later (Config.freeRegister s.freeNext) s))
    (h : configWrite now later s = .next t) : Move s t := by
  unfold configWrite at h
  rw [Host.Outcome.next.injEq] at h
  cases hb : s.status.busy with
  | false =>
    rw [hb] at h
    exact .config hb (h ▸ hn)
  | true =>
    rw [hb] at h
    exact .disturb hb _ hl h.symm

theorem hostWriteSrc_next {a : Nat} {v : Byte} {s t : State} (h : hostWriteSrc a v s = .next t) :
    a < 2 ^ s.cfg.addrBits ∧ t = putSrc (Memory.write s.src a v) (noteTouch (decide (inSource s a)) s) := by
  unfold hostWriteSrc at h
  split at h
  · rename_i ha; exact ⟨ha, (Host.Outcome.next.inj h).symm⟩
  · simp at h

theorem hostWriteDst_next {p : Nat} {v : Pixel} {s t : State} (h : hostWriteDst p v s = .next t) :
    p < 2 ^ s.cfg.addrBits ∧ t = putDst (writePixel s.dst p v) (noteTouch (decide (inRaster s p)) s) := by
  unfold hostWriteDst at h
  split at h
  · rename_i ha; exact ⟨ha, (Host.Outcome.next.inj h).symm⟩
  · simp at h

theorem hostReadDst_next {p : Nat} {s t : State} (h : hostReadDst p s = .next t) :
    p < 2 ^ s.cfg.addrBits ∧ t = noteTouch (decide (inRaster s p)) s := by
  unfold hostReadDst at h
  split at h
  · rename_i ha; exact ⟨ha, (Host.Outcome.next.inj h).symm⟩
  · simp at h

/-- The state a step moves from: the host's next event is taken off its queue. -/
def popHost (s : State) : State := putHost s.host.tail s

theorem decodeCommand_cases (v : BitVec 32) : decodeCommand v = .ok .decode ∨ decodeCommand v = .error .notStart := by
  unfold decodeCommand
  split
  · exact .inl rfl
  · exact .inr rfl

/-- The inversion of `step`. -/
theorem step_next_cases {s t : State} (h : step s = .next t) : Move (popHost s) t := by
  unfold step plan at h
  split at h
  · rename_i hh
    have e : popHost s = s := by
      unfold popHost
      rw [hh, List.tail_nil, ← hh]
      rfl
    rw [e]
    exact .decoder (decoderStep_of_next h)
  · rename_i ev rest hh
    have e : popHost s = putHost rest s := by
      unfold popHost
      rw [hh, List.tail_cons]
    rw [← e] at h
    cases ev with
    | run => exact .decoder (decoderStep_of_next h)
    | writeFormat v => exact configWrite_move (.format v rfl) (.format rfl) h
    | writeWidth v => exact configWrite_move (.width v rfl) (.width rfl) h
    | writeHeight v => exact configWrite_move (.height v rfl) (.height rfl) h
    | writeSrcBase v => exact configWrite_move (.srcBase v rfl) (.srcBase rfl) h
    | writeSrcLen v => exact configWrite_move (.srcLen v rfl) (.srcLen rfl) h
    | writeDstBase v => exact configWrite_move (.dstBase v rfl) (.dstBase rfl) h
    | writeCtrl v =>
      rcases decodeCommand_cases v with hv | hv
      · rcases execDecode_cases (popHost s) with ⟨-, hx⟩ | ⟨-, e, -, hx⟩ | ⟨-, -, hx⟩ <;>
        · simp only [hostPlan, ctrlPlan, hv, runPlan, exec, hx, afterOutcome, afterInstr, Instr.kind] at h
          exact .launch (hx.trans h)
      · simp only [hostPlan, ctrlPlan, hv, runPlan, Host.Outcome.next.injEq] at h
        exact .nothing h.symm
    | writeSrc a v => exact .writeSrc a v (hostWriteSrc_next h).1 (hostWriteSrc_next h).2
    | writeDst p v => exact .writeDst p v (hostWriteDst_next h).1 (hostWriteDst_next h).2
    | readDst p => exact .readDst p (hostReadDst_next h).1 (hostReadDst_next h).2
    | reset => exact .reset (Host.Outcome.next.inj h).symm

end Sys2Proof.Machine
end

