-- ==== Sys2Proof/Laws/Safety.lean ====
section
/-! SUPPORT. What the sizes of a command and the invariants depend on: congruence in the fields they read. -/

namespace Sys2Proof.Machine

theorem hasAlpha_congr {s t : State} (hg : t.cfg = s.cfg) (h : t.format = s.format) : hasAlpha t ↔ hasAlpha s := by
  unfold hasAlpha
  rw [hg, h]

theorem recBytes_congr {s t : State} (hg : t.cfg = s.cfg) (h : t.format = s.format) : recBytes t = recBytes s := by
  unfold recBytes hasAlpha
  rw [hg, h]

theorem tiles_congr {s t : State} (hw : t.width = s.width) (hh : t.height = s.height) : tiles t = tiles s := by
  unfold tiles
  rw [hw, hh]

theorem rasterPixels_congr {s t : State} (hw : t.width = s.width) (hh : t.height = s.height) :
    rasterPixels t = rasterPixels s := by
  unfold rasterPixels
  rw [hw, hh]

theorem tilePixel_congr {s t : State} (hc : t.cur = s.cur) (hw : t.width = s.width) (x y : Nat) :
    tilePixel t x y = tilePixel s x y := by
  unfold tilePixel
  rw [hc, hw]

theorem tileInRange_congr {s t : State} (hg : t.cfg = s.cfg) (hc : t.cur = s.cur) (hw : t.width = s.width) :
    tileInRange t ↔ tileInRange s := by
  unfold tileInRange
  rw [tilePixel_congr hc hw, hg]

theorem nextCursor_congr {s t : State} (hg : t.cfg = s.cfg) (hc : t.cur = s.cur) (hw : t.width = s.width)
    (hf : t.format = s.format) : nextCursor t = nextCursor s := by
  unfold nextCursor
  rw [hc, hw, recBytes_congr hg hf]

theorem inRaster_congr {s t : State} (h : sameConfig s t) (p : Nat) : inRaster t p ↔ inRaster s p := by
  obtain ⟨-, -, hw, hh, -, -, hd, -, -⟩ := h
  unfold inRaster
  rw [rasterPixels_congr hw hh, hd]

theorem inSource_congr {s t : State} (h : sameConfig s t) (a : Nat) : inSource t a ↔ inSource s a := by
  obtain ⟨hc, hf, hw, hh, hb, -, -, -, -⟩ := h
  unfold inSource
  rw [recBytes_congr hc hf, tiles_congr hw hh, hb]

theorem launchLegal_congr {s t : State} (h : sameConfig s t) : t.launchLegal ↔ s.launchLegal := by
  obtain ⟨hc, hf, hw, hh, -, hl, -, -, -⟩ := h
  unfold State.launchLegal formatLegal geometryLegal
  rw [recBytes_congr hc hf, tiles_congr hw hh, hc, hf, hw, hh, hl]

theorem regionsExist_congr {s t : State} (h : sameConfig s t) : t.regionsExist ↔ s.regionsExist := by
  obtain ⟨hc, hf, hw, hh, hb, hl, hd, -, -⟩ := h
  unfold State.regionsExist
  rw [recBytes_congr hc hf, tiles_congr hw hh, rasterPixels_congr hw hh, hc, hb, hl, hd]

/-- The command invariant reads the configuration, `STATUS`, the cursor and the phase. -/
theorem commandInv_congr {s t : State} (h : sameConfig s t) (hs : t.status = s.status) (hc : t.cur = s.cur)
    (hp : t.phase = s.phase) : t.commandInv ↔ s.commandInv := by
  have hl := launchLegal_congr h
  obtain ⟨hg, hf, hw, hh, hb, -, hd, -, -⟩ := h
  unfold State.commandInv State.cursorClosed
  rw [hl, recBytes_congr hg hf, hasAlpha_congr hg hf, hs, hc, hp, hw, hh, hb, hd]

/-- The marks of interference read `STATUS`, the mark and the later values. -/
theorem interferenceInv_congr {s t : State} (hs : t.status = s.status) (hi : t.interfered = s.interfered)
    (hl : t.later = s.later) : t.interferenceInv ↔ s.interferenceInv := by
  unfold State.interferenceInv
  rw [hs, hi, hl]

/-- Where there is no event of the host but `run`, the step is the decoder's. -/
theorem step_quiet {s : State} (h : s.hostQuiet) : step s = runPlan (decoderPlan (popHost s)) := by
  unfold step plan
  split
  · rename_i hh
    have e : popHost s = s := by
      unfold popHost
      rw [hh, List.tail_nil, ← hh]
      rfl
    rw [e]
  · rename_i ev rest hh
    have hev : ev = .run := h ev (by rw [hh]; exact List.mem_cons_self)
    subst hev
    have e : popHost s = putHost rest s := by
      unfold popHost
      rw [hh, List.tail_cons]
    rw [e]
    rfl

/-- A run of one step more. -/
theorem run_succ {s t : State} (h : step s = .next t) (n : Nat) :
    Sys2Proof.core.run (n + 1) s = Sys2Proof.core.run n t := by
  have h' : Sys2Proof.core.step s = .next t := h
  simp only [Host.Core.run, h']

end Sys2Proof.Machine
end

