-- ==== Sys2Proof/Laws/Words.lean ====
section
/-! SUPPORT. The four word operations where their tile exists: the next state of each as one equation, its frame, and the
pixels it leaves. -/

namespace Sys2Proof.Machine

/-- A state that differs in working values, free-value counter and the tile's bytes of DST is in the frame. -/
theorem wordFrame_put (s : State) (wk : Work) (n : Nat) (m : Memory)
    (h : ∀ a, outsideTile s a → Memory.load .dst m a = Memory.load .dst s.dst a) :
    wordFrame s (putDst m (putFree n (putWork wk s))) :=
  ⟨⟨rfl, rfl, rfl, rfl, rfl, rfl, rfl, rfl, rfl, rfl, rfl, rfl, rfl, rfl, rfl⟩, h⟩

theorem wordFrame_putWork (s : State) (wk : Work) (m : Memory)
    (h : ∀ a, outsideTile s a → Memory.load .dst m a = Memory.load .dst s.dst a) :
    wordFrame s (putDst m (putWork wk s)) :=
  ⟨⟨rfl, rfl, rfl, rfl, rfl, rfl, rfl, rfl, rfl, rfl, rfl, rfl, rfl, rfl, rfl⟩, h⟩

/-! ### `CW.INDIV` -/

theorem exec_cwIndiv_next (f : IndivWord) (s : State) (h : tileInRange s) :
    exec (.cwIndiv f) s = .next (putDst
      (writePixels s.dst (colorStores (putWork (indivWork s.cfg f s.work) s) noneOpen s.freeNext))
      (putWork (indivWork s.cfg f s.work) s)) :=
  storeTile_of_inRange (s := putWork _ s) h

theorem cwIndiv_frame (f : IndivWord) (s : State) :
    wordFrame s (putDst (writePixels s.dst (colorStores (putWork (indivWork s.cfg f s.work) s) noneOpen s.freeNext))
      (putWork (indivWork s.cfg f s.work) s)) :=
  wordFrame_putWork s _ _ fun a ha => load_colorStores .dst (putWork (indivWork s.cfg f s.work) s) noneOpen s.freeNext a ha

theorem cwIndiv_pixel (f : IndivWord) (s : State) (hw : 4 ≤ s.width.toNat) {k : Nat} (hk : k < 16) :
    readPixel (writePixels s.dst (colorStores (putWork (indivWork s.cfg f s.work) s) noneOpen s.freeNext))
      (tilePixel s (colOf s.cfg.pixelOrder k) (rowOf s.cfg.pixelOrder k)) =
    colorPixel s.cfg (indivWork s.cfg f s.work) noneOpen s.freeNext k :=
  readPixel_colorStores (putWork (indivWork s.cfg f s.work) s) noneOpen s.freeNext hw hk

/-! ### `CW.DIFF` -/

theorem exec_cwDiff_next (f : DiffWord) (s : State) (h : tileInRange s) :
    exec (.cwDiff f) s = .next (putDst
      (writePixels s.dst (colorStores
        (putFree (s.freeNext + diffDrawn f) (putWork (diffWork s.cfg s.freeNext f s.work) s)) (diffOpen f) s.freeNext))
      (putFree (s.freeNext + diffDrawn f) (putWork (diffWork s.cfg s.freeNext f s.work) s))) :=
  storeTile_of_inRange (s := putFree _ (putWork _ s)) h

theorem cwDiff_frame (f : DiffWord) (s : State) :
    wordFrame s (putDst
      (writePixels s.dst (colorStores
        (putFree (s.freeNext + diffDrawn f) (putWork (diffWork s.cfg s.freeNext f s.work) s)) (diffOpen f) s.freeNext))
      (putFree (s.freeNext + diffDrawn f) (putWork (diffWork s.cfg s.freeNext f s.work) s))) :=
  wordFrame_put s _ _ _ fun a ha =>
    load_colorStores .dst (putFree (s.freeNext + diffDrawn f) (putWork (diffWork s.cfg s.freeNext f s.work) s))
      (diffOpen f) s.freeNext a ha

theorem cwDiff_pixel (f : DiffWord) (s : State) (hw : 4 ≤ s.width.toNat) {k : Nat} (hk : k < 16) :
    readPixel (writePixels s.dst (colorStores
        (putFree (s.freeNext + diffDrawn f) (putWork (diffWork s.cfg s.freeNext f s.work) s)) (diffOpen f) s.freeNext))
      (tilePixel s (colOf s.cfg.pixelOrder k) (rowOf s.cfg.pixelOrder k)) =
    colorPixel s.cfg (diffWork s.cfg s.freeNext f s.work) (diffOpen f) s.freeNext k :=
  readPixel_colorStores (putFree (s.freeNext + diffDrawn f) (putWork (diffWork s.cfg s.freeNext f s.work) s))
    (diffOpen f) s.freeNext hw hk

/-! ### `CW.PLANAR` -/

theorem exec_cwPlanar_next (f : PlanarWord) (s : State) (h : tileInRange s) :
    exec (.cwPlanar f) s = .next (putDst
      (writePixels s.dst (planarStores (putWork (planarWork f s.work) s))) (putWork (planarWork f s.work) s)) :=
  storeTile_of_inRange (s := putWork _ s) h

theorem cwPlanar_frame (f : PlanarWord) (s : State) :
    wordFrame s (putDst
      (writePixels s.dst (planarStores (putWork (planarWork f s.work) s))) (putWork (planarWork f s.work) s)) :=
  wordFrame_putWork s _ _ fun a ha => load_planarStores .dst (putWork (planarWork f s.work) s) a ha

theorem cwPlanar_pixel (f : PlanarWord) (s : State) (hw : 4 ≤ s.width.toNat) {i j : Nat} (hi : i < 4) (hj : j < 4) :
    readPixel (writePixels s.dst (planarStores (putWork (planarWork f s.work) s))) (tilePixel s i j) =
    planarPixel s.cfg (planarWork f s.work) i j :=
  readPixel_planarStores (putWork (planarWork f s.work) s) hw hi hj

/-! ### `AW.ALPHA` -/

theorem exec_awAlpha_next (f : AlphaWord) (s : State) (h : tileInRange s) :
    exec (.awAlpha f) s = .next (putDst
      (updateAlphas s.cfg.pixelLayout s.dst (alphaStores (putWork (alphaWork f s.work) s) f.sels)) (putWork (alphaWork f s.work) s)) :=
  storeTile_of_inRange (s := putWork _ s) h

theorem awAlpha_frame (f : AlphaWord) (s : State) :
    wordFrame s (putDst
      (updateAlphas s.cfg.pixelLayout s.dst (alphaStores (putWork (alphaWork f s.work) s) f.sels)) (putWork (alphaWork f s.work) s)) :=
  wordFrame_putWork s _ _ fun a ha => load_alphaStores .dst (putWork (alphaWork f s.work) s) f.sels a ha

theorem awAlpha_pixel (f : AlphaWord) (s : State) (hw : 4 ≤ s.width.toNat) {p : Nat} (hp : p < 16) :
    readPixel (updateAlphas s.cfg.pixelLayout s.dst (alphaStores (putWork (alphaWork f s.work) s) f.sels))
      (tilePixel s (colOf s.cfg.pixelOrder p) (rowOf s.cfg.pixelOrder p)) =
    withAlpha s.cfg.pixelLayout (readPixel s.dst (tilePixel s (colOf s.cfg.pixelOrder p) (rowOf s.cfg.pixelOrder p)))
      (alphaValue s.cfg f.base f.mul f.tbl (selector f.sels p)) :=
  readPixel_alphaStores (putWork (alphaWork f s.work) s) f.sels hw hp

end Sys2Proof.Machine
end

