-- ==== Sys2Proof/Tests/Slice0.lean ====
section
/-! SUPPORT. The model's own tests, one step each: the spec's vectors (95_test_vectors), the ill-formed terms, and a witness
for the hypotheses of every statement. Expected values are the spec's. -/

open Sys2Proof Sys2Proof.Machine

namespace Sys2Proof.Tests

-- One theorem at a time: the kernel evaluations below, run side by side, would take too much memory.
set_option Elab.async false

/-! ### Helpers -/

/-- An idle machine set up for an image whose source stands at 52. -/
def job (format width height : BitVec 32) (srcLen : Nat) : State :=
  { State.reset with
    format := format, width := width, height := height, srcBase := 52, srcLen := srcLen
    written := ⟨true, true, true, true, true, true⟩ }

/-- The same with its command just begun and the bytes placed at 52. -/
def running (format width height : BitVec 32) (srcLen : Nat) (bytes : List Byte) : State :=
  putSrc (placeBytes [] 52 bytes) (beginCommand (job format width height srcLen))

/-- A 4x4 tile in progress, with the given pixel order. -/
def tile (o : PixelOrder) : State := { running 22 4 4 8 [] with cfg := { specConfig with pixelOrder := o } }

/-- Sixteen pixels from index 0 on. -/
def pixels : Host.Outcome State Fault Refusal → List Pixel
  | .next t => (List.range 16).map (readPixel t.dst)
  | .fault _ => []
  | .refused _ => []

/-- The tile that stored bytes of a kind leave on a memory. -/
def leaves (o : PixelOrder) (k : WordKind) (bytes : List Byte) (dst : Memory) : List Pixel :=
  match decodeBytes specConfig k bytes with
  | .ok (i, _) => pixels (exec i (putDst dst (tile o)))
  | .error _ => []

/-- Sixteen pixels in rows. -/
def rows (a b c d : List Pixel) : List Pixel := a ++ b ++ c ++ d

/-- The tile `T0` of spec 95 section 2.6, its alpha bytes as given. -/
def tile0 (a : Byte) : List Pixel :=
  ([0x030201, 0x060402, 0x090603, 0x0C0804, 0x0F0A05, 0x120C06, 0x150E07, 0x181008] ++
   [0x1B1209, 0x1E140A, 0x21160B, 0x24180C, 0x271A0D, 0x2A1C0E, 0x2D1E0F, 0x302010] : List (BitVec 24)).map fun v =>
    a ++ v.extractLsb' 0 8 ++ v.extractLsb' 8 8 ++ v.extractLsb' 16 8

def memory0 (a : Byte) : Memory := writePixels [] ((List.range 16).zip (tile0 a))

/-- `T0` with the given alphas. -/
def tile0With (alphas : List Byte) : List Pixel := (alphas.zip (tile0 0)).map fun q => withAlpha .rgba q.2 q.1

def statusOf : Host.Outcome State Fault Refusal → Option Status
  | .next t => some t.status
  | .fault _ => none
  | .refused _ => none

def faultOf : Host.Outcome State Fault Refusal → Option Fault
  | .next _ => none
  | .fault r => some r
  | .refused _ => none

/-- The outcome is a next state with the given property. -/
def nextHas (p : State → Bool) : Host.Outcome State Fault Refusal → Bool
  | .next t => p t
  | .fault _ => false
  | .refused _ => false

theorem exists_next {o : Host.Outcome State Fault Refusal} (h : nextHas (fun _ => true) o = true) : ∃ t, o = .next t := by
  cases o with
  | next t => exact ⟨t, rfl⟩
  | fault r => cases h
  | refused r => cases h

/-! ### Ill-formed terms -/

/-- Blue of base-1 is 32 and -1: planar words, so no differential term. -/
theorem test_wf_diff_blue :
    ¬ (Instr.cwDiff ⟨⟨0, 0, 31⟩, ⟨0, 0, 1⟩, 0, 0, 0, 0, 0⟩).WellFormed ∧
    ¬ (Instr.cwDiff ⟨⟨0, 0, 0⟩, ⟨0, 0, 7⟩, 0, 0, 0, 0, 0⟩).WellFormed ∧
    (Instr.cwDiff ⟨⟨0, 0, 31⟩, ⟨0, 0, 0⟩, 0, 0, 0, 0, 0⟩).WellFormed := by decide

/-- Unused bits zero and `BO` zero: sum 0, a differential word. -/
theorem test_wf_planar_blue :
    ¬ (Instr.cwPlanar ⟨⟨0, 0, 0⟩, ⟨0, 0, 0⟩, ⟨0, 0, 0⟩, 0, 0, 0, 0⟩).WellFormed ∧
    (Instr.cwPlanar ⟨⟨0, 0, 0⟩, ⟨0, 0, 0⟩, ⟨0, 0, 0⟩, 0, 0, 0, 1⟩).WellFormed := by decide

/-! ### Decoding (words written out from 30_encoding R83 to R87; 95 V1 to V6) -/

/-- V1, V2. -/
theorem test_normalizers :
    normC 0xEFCDAB8967452301 = 0x89ABCDEF01234567 ∧ normA 0xEFCDAB8967452301 = 0x0123456789ABCDEF ∧
    normC (loadWord 0 0 0 1 0 0 0 0x80) = 0x0000008000000001 ∧
    normA (loadWord 0x12 0x34 0x56 0x78 0x9A 0xBC 0xDE 0xF0) = 0x123456789ABCDEF0 := by decide

/-- `IH IL CR0 CR1 CG0 CG1 CB0 CB1 T0 T1 0 FLIP` (R83). -/
theorem test_decode_indiv :
    decodeColor specConfig (0b1100110011001100#16 ++ 0b1010101010101010#16 ++ 0b0001#4 ++ 0b1111#4 ++ 0b0010#4 ++ 0b1110#4 ++
      0b0011#4 ++ 0b1101#4 ++ 0b011#3 ++ 0b111#3 ++ 0b0#1 ++ 0b0#1) =
    .cwIndiv ⟨⟨1, 2, 3⟩, ⟨15, 14, 13⟩, 3, 7, 0, 0xAAAA, 0xCCCC⟩ := by decide

/-- `IH IL CR0 DR CG0 DG CB0 DB T0 T1 1 FLIP` (R84). -/
theorem test_decode_diff :
    decodeColor specConfig (0b1111000000111100#16 ++ 0b1100110001011010#16 ++ 0b10000#5 ++ 0b011#3 ++ 0b01000#5 ++ 0b100#3 ++
      0b00100#5 ++ 0b111#3 ++ 0b010#3 ++ 0b101#3 ++ 0b1#1 ++ 0b0#1) =
    .cwDiff ⟨⟨16, 8, 4⟩, ⟨3, 4, 7⟩, 2, 5, 0, 0xCC5A, 0xF03C⟩ := by decide

/-- `GH BH RV GV BV u RO GO6 u GO5..0 BO5 u BO4..3 u BO2..0 RH5..1 1 RH0` (R86). -/
theorem test_decode_planar :
    decodeColor specConfig (0b1100100#7 ++ 0b000101#6 ++ 0b000000#6 ++ 0b1111111#7 ++ 0b101000#6 ++ 0b0#1 ++ 0b001010#6 ++ 0b0#1 ++
      0b0#1 ++ 0b010100#6 ++ 0b0#1 ++ 0b111#3 ++ 0b11#2 ++ 0b0#1 ++ 0b110#3 ++ 0b11111#5 ++ 0b1#1 ++ 0b1#1) =
    .cwPlanar ⟨⟨10, 20, 30⟩, ⟨63, 100, 5⟩, ⟨0, 127, 40⟩, 0, 0, 7, 0⟩ := by decide

/-- `ABASE AMUL ATBL` and the selectors 0..7 twice (R87). -/
theorem test_decode_alpha :
    decodeAlpha specConfig (0b10000000#8 ++ 0b0011#4 ++ 0b1101#4 ++
      (0b000001010011100101110111#24 : BitVec 24) ++ (0b000001010011100101110111#24 : BitVec 24)) =
    .awAlpha ⟨128, 3, 13, 0x053977053977⟩ := by decide

/-- Bit 0 of the value written to CTRL (10_state R29); a list too short for its kind is refused by name. -/
theorem test_decode_command :
    decodeCommand 1 = .ok .decode ∧ decodeCommand 0xFFFFFFFF = .ok .decode ∧ decodeCommand 2 = .error .notStart ∧
    decodeBytes specConfig .command [0, 0, 0, 0] = .error .notStart ∧
    decodeBytes specConfig .color [1, 2, 3] = .error .truncated := by decide

/-- V6: the three modes at the edges of the blue sum, and V5. -/
theorem test_dispatch :
    ([0xF8, 0xFF, 0xF1, 0xE3, 0xE4, 0x00, 0x03, 0x0F, 0x24] : List (BitVec 64)).all
      (fun v => dispatchMode specColorLayout (v <<< 8 ||| 2) == .differential) = true ∧
    ([0xF9, 0xFB, 0xF2, 0xEB, 0x07, 0x04, 0x0E, 0x15, 0x1C] : List (BitVec 64)).all
      (fun v => dispatchMode specColorLayout (v <<< 8 ||| 2) == .planar) = true ∧
    dispatchMode specColorLayout 0xF900 = .individual := by decide

/-- V33: the planar word of V30 with `DIFF` cleared. -/
theorem test_decode_v33 : decodeBytes specConfig .color [0x14, 0x28, 0xFB, 0x7D, 0xC8, 0x28, 0x1F, 0xE8] =
    .ok (.cwIndiv ⟨⟨1, 2, 15⟩, ⟨4, 8, 11⟩, 3, 7, 1, 0x1FE8, 0xC828⟩, []) := by decide

/-! ### Operand forms (95 V3, V4) -/

theorem test_expanders :
    [exp4 7, exp4 8, exp4 15] = [119, 136, 255] ∧ [exp5 4, exp5 16, exp5 19, exp5 31] = [33, 132, 156, 255] ∧
    [exp6 10, exp6 16, exp6 30, exp6 63] = [40, 65, 121, 255] ∧ [exp7 20, exp7 64, exp7 100, exp7 127] = [40, 129, 201, 255] := by
  decide

theorem test_spread16 :
    spread16 0xFFFF = 0x55555555 ∧ spread16 0x8001 = 0x40000001 ∧ spread16 0x00F0 = 0x00005500 ∧
    indexField .upper 0xAAAA 0xCCCC = 0xE4E4E4E4 ∧ indexField .upper 0xCC5A 0xF03C = 0xFA501BE4 := by decide

/-- The bounds of 00_scope R18. -/
theorem test_clamp8 : [clamp8 (-225), clamp8 (-1), clamp8 0, clamp8 255, clamp8 256, clamp8 438] = [0, 0, 0, 255, 255, 255] := by
  decide

/-! ### `CW.INDIV` (95 V10, V11, V20 to V23) -/

/-- V10: red saturates, green and blue take the modifier. -/
theorem test_indiv_v10 (o : PixelOrder) :
    leaves o .color [0xFF, 0, 0, 0, 0, 0, 0, 0] [] = List.replicate 16 0xFF0202FF := by cases o <;> decide +kernel

/-- V11: both clamps, columns and rows. -/
theorem test_indiv_v11_columns : leaves .colMajor .color [0xF0, 0xE1, 0x1E, 0xFC, 0xCC, 0xCC, 0xFF, 0xFF] [] =
    rows [0xFFC8FFFF, 0xFFC8FFFF, 0xFFFFC8B7, 0xFFFFC8B7] [0xFFC8FFFF, 0xFFC8FFFF, 0xFFFFC8B7, 0xFFFFC8B7]
      [0xFF003748, 0xFF003748, 0xFF370000, 0xFF370000] [0xFF003748, 0xFF003748, 0xFF370000, 0xFF370000] := by decide +kernel

/-! ### `CW.DIFF` (95 V24, V25, V26) -/

theorem test_diff_v24 : leaves .rowMajor .color [0x83, 0x44, 0x27, 0x56, 0xF0, 0x3C, 0xCC, 0x5A] [] =
    rows [0xFF2A4B8D, 0xFF3E5FA1, 0xFF000984, 0xFF00004C] [0xFF042567, 0xFF18397B, 0xFF6871EC, 0xFF3039B4]
      [0xFF2A4B8D, 0xFF2A4B8D, 0xFF6871EC, 0xFF6871EC] [0xFF18397B, 0xFF18397B, 0xFF00004C, 0xFF00004C] := by decide +kernel

theorem test_diff_v25_columns : leaves .colMajor .color [0x83, 0x44, 0x27, 0x57, 0xF0, 0x3C, 0xCC, 0x5A] [] =
    rows [0xFF2A4B8D, 0xFF042567, 0xFF2A4B8D, 0xFF18397B] [0xFF3E5FA1, 0xFF18397B, 0xFF2A4B8D, 0xFF18397B]
      [0xFF000984, 0xFF6871EC, 0xFF6871EC, 0xFF00004C] [0xFF00004C, 0xFF3039B4, 0xFF6871EC, 0xFF00004C] := by decide +kernel

/-- The word of V26, red of base-1 out of range. -/
def word26 : DiffWord := diffFields specColorLayout (normC (loadWord 0xF3 0x40 0x20 0x02 0 0 0 0))

/-- V26: it runs; sub-block 0 is specified, of sub-block 1 all but the red byte. -/
theorem test_diff_v26 :
    colorPixel specConfig (diffWork specConfig 0 word26 Work.initial) (diffOpen word26) 0 1 = 0xFF2344F9 ∧
    colorPixel specConfig (diffWork specConfig 0 word26 Work.initial) (diffOpen word26) 0 2 =
      pack .rgba (Config.freeByte 6) 68 35 255 := ⟨by decide +kernel, rfl⟩

/-! ### Pixel order and sub-blocks (95 V20 to V23, V33) -/

theorem test_indiv_v20 : leaves .rowMajor .color [0x1F, 0x2E, 0x3D, 0x7C, 0xCC, 0xCC, 0xAA, 0xAA] [] =
    rows [0xFF402F1E, 0xFF5D4C3B, 0xFFAEBFD0, 0xFF263748] [0xFF402F1E, 0xFF5D4C3B, 0xFFAEBFD0, 0xFF263748]
      [0xFF402F1E, 0xFF5D4C3B, 0xFFAEBFD0, 0xFF263748] [0xFF402F1E, 0xFF5D4C3B, 0xFFAEBFD0, 0xFF263748] := by decide +kernel

theorem test_indiv_v22_flip : leaves .rowMajor .color [0x1F, 0x2E, 0x3D, 0x7D, 0xCC, 0xCC, 0xAA, 0xAA] [] =
    rows [0xFF402F1E, 0xFF5D4C3B, 0xFF261504, 0xFF090000] [0xFF402F1E, 0xFF5D4C3B, 0xFF261504, 0xFF090000]
      [0xFFFFFFFF, 0xFFFFFFFF, 0xFFAEBFD0, 0xFF263748] [0xFFFFFFFF, 0xFFFFFFFF, 0xFFAEBFD0, 0xFF263748] := by decide +kernel

/-! ### `CW.PLANAR` (95 V30, V31, V34) -/

/-- V34 gives the sixteen pixels of V30: the unused bits and the pixel order play no part. -/
theorem test_planar_v34 (o : PixelOrder) : leaves o .color [0x94, 0xA8, 0xFB, 0x7F, 0xC8, 0x28, 0x1F, 0xE8] [] =
    rows [0xFF792828, 0xFF60505E, 0xFF477994, 0xFF2DA1C9] [0xFF835E1E, 0xFF6A8654, 0xFF51AE8A, 0xFF38D7BF]
      [0xFF8E9414, 0xFF74BC4A, 0xFF5BE480, 0xFF42FFB5] [0xFF98C90A, 0xFF7FF240, 0xFF65FF76, 0xFF4CFFAB] := by
  cases o <;> decide +kernel

/-- V31: both clamps and a negative numerator. -/
theorem test_planar_v31 : leaves .rowMajor .color [0x7E, 0x01, 0xFB, 0x82, 0xFE, 0x00, 0x1F, 0xC0] [] =
    rows [0xFFFF00FF, 0xFFBF40BF, 0xFF808080, 0xFF40BF40] [0xFFBF40BF, 0xFF808080, 0xFF40BF40, 0xFF00FF00]
      [0xFF808080, 0xFF40BF40, 0xFF00FF00, 0xFF00FF00] [0xFF40BF40, 0xFF00FF00, 0xFF00FF00, 0xFF00FF00] := by decide +kernel

/-! ### `AW.ALPHA` (95 V40 to V44) -/

/-- V41 and V42. -/
theorem test_alpha_v41 :
    leaves .rowMajor .alpha [0x80, 0x3D, 0x05, 0x39, 0x77, 0x05, 0x39, 0x77] (memory0 0xFF) =
      tile0With [0x7D, 0x7A, 0x77, 0x62, 0x80, 0x83, 0x86, 0x9B, 0x7D, 0x7A, 0x77, 0x62, 0x80, 0x83, 0x86, 0x9B] ∧
    leaves .colMajor .alpha [0x80, 0x3D, 0x05, 0x39, 0x77, 0x05, 0x39, 0x77] (memory0 0xFF) =
      tile0With [0x7D, 0x80, 0x7D, 0x80, 0x7A, 0x83, 0x7A, 0x83, 0x77, 0x86, 0x77, 0x86, 0x62, 0x9B, 0x62, 0x9B] := by
  constructor <;> decide +kernel

/-- V40 on alphas of 0x12, V43, V44. -/
theorem test_alpha_limits :
    leaves .rowMajor .alpha [0xFF, 0x05, 0x05, 0x39, 0x77, 0xFA, 0xC6, 0x88] (memory0 0x12) = tile0 0xFF ∧
    leaves .rowMajor .alpha [0x0A, 0xF0, 0x6D, 0xB6, 0xDB, 0x6D, 0xB6, 0xDB] (memory0 0xFF) = tile0 0 ∧
    leaves .rowMajor .alpha [0xFA, 0xF0, 0xFF, 0xFF, 0xFF, 0xFF, 0xFF, 0xFF] (memory0 0x12) = tile0 0xFF := by
  refine ⟨?_, ?_, ?_⟩ <;> decide +kernel

/-! ### `DECODE` (95 V50, P5, P6) -/

/-- The refused rows of V50. -/
theorem test_decode_refusals :
    statusOf (execDecode (job 5 8 8 1000)) = some ⟨false, false, true, 2⟩ ∧
    statusOf (execDecode (job 0x9274 8 8 1000)) = some ⟨false, false, true, 2⟩ ∧
    statusOf (execDecode (job 5 6 8 0)) = some ⟨false, false, true, 2⟩ ∧
    statusOf (execDecode (job 22 6 8 1000)) = some ⟨false, false, true, 3⟩ ∧
    statusOf (execDecode (job 22 8 2 0)) = some ⟨false, false, true, 3⟩ ∧
    statusOf (execDecode (job 22 8 8 31)) = some ⟨false, false, true, 5⟩ ∧
    statusOf (execDecode (job 23 8 8 63)) = some ⟨false, false, true, 5⟩ := by decide

/-- The accepted rows of V50, the empty image done at once. -/
theorem test_decode_accepted :
    statusOf (execDecode (job 22 8 8 32)) = some ⟨true, false, false, 0⟩ ∧
    statusOf (execDecode (job 23 8 8 64)) = some ⟨true, false, false, 0⟩ ∧
    statusOf (execDecode (job 6 0 8 0)) = some ⟨false, true, false, 0⟩ ∧
    statusOf (execDecode (job 7 4 4 8)) = some ⟨true, false, false, 0⟩ := by decide

/-- `STATUS` as the host reads it (10_state R28). -/
theorem test_status_word :
    Status.running.toWord = 1 ∧ Status.completed.toWord = 2 ∧ (Status.refusedWith .truncatedSource).toWord = 0x54 := by decide

/-! ### One step -/

/-- The one tile of P1 in progress. -/
def stepP1 : State := running 6 4 4 8 [0x83, 0x44, 0x27, 0x56, 0xF0, 0x3C, 0xCC, 0x5A]

/-- P1: the step of its one tile writes DST 0..15, moves the cursor to 60 and 16, and completes. -/
theorem test_step_p1 :
    pixels (step stepP1) =
      rows [0xFF2A4B8D, 0xFF3E5FA1, 0xFF000984, 0xFF00004C] [0xFF042567, 0xFF18397B, 0xFF6871EC, 0xFF3039B4]
        [0xFF2A4B8D, 0xFF2A4B8D, 0xFF6871EC, 0xFF6871EC] [0xFF18397B, 0xFF18397B, 0xFF00004C, 0xFF00004C] ∧
    nextHas (fun t => t.status == Status.completed && t.cur.srcPtr == 60 && t.cur.dstPtr == 16 && t.dst.length == 64)
      (step stepP1) = true := by
  constructor <;> decide +kernel

/-- The cursor walk of 45_sequencer R195 (P4): steps 1, 2, 3 of an 8x8 image. -/
theorem test_cursor_p4 :
    let s := running 22 8 8 32 []
    nextCursor s = ⟨60, 4, 1, 0⟩ ∧ nextCursor (putCursor ⟨60, 4, 1, 0⟩ s) = ⟨68, 32, 0, 1⟩ ∧
      nextCursor (putCursor ⟨68, 32, 0, 1⟩ s) = ⟨76, 36, 1, 1⟩ := by decide

/-- The first record of P3 in progress. -/
def record3 : State := running 23 4 4 16
  ([0x80, 0x3D, 0x05, 0x39, 0x77, 0x05, 0x39, 0x77] ++ [0x1F, 0x2E, 0x3D, 0x7C, 0xCC, 0xCC, 0xAA, 0xAA])

/-- P3: in a record of 16 bytes the colour word at 60 comes first, the alpha word at 52 second. -/
theorem test_fetch_order_p3 :
    fetchAddr record3 = 60 ∧ (fetchInstr record3).kind = .color ∧ (wordDone record3).phase = .alpha ∧
      (wordDone record3).cur = record3.cur ∧ fetchAddr (putPhase .alpha record3) = 52 ∧
      fetchInstr (putPhase .alpha record3) = .awAlpha ⟨128, 3, 13, 0x053977053977⟩ := by decide +kernel

/-- The step of P1 ends in a next state. -/
theorem next_stepP1 : ∃ t, step stepP1 = .next t := exists_next (by decide +kernel)

/-- A tile that does not exist stops the word operation; a word that does not exist stops the fetch. -/
theorem test_step_out_of_range :
    faultOf (step { stepP1 with cfg := { specConfig with addrBits := 5 } }) = some .srcOutOfRange ∧
    faultOf (exec (fetchInstr stepP1) { stepP1 with cfg := { specConfig with addrBits := 3 } }) = some .dstOutOfRange := by
  constructor <;> decide +kernel

/-- The host (70 R270, R273): a byte written into the running source is interference, the byte after it is not, and
neither is START; a configuration write is, and the running command keeps the register it was launched with. -/
theorem test_step_host :
    nextHas (fun t => t.interfered) (step (putHost [.writeSrc 59 0] stepP1)) = true ∧
    nextHas (fun t => !t.interfered) (step (putHost [.writeSrc 60 0] stepP1)) = true ∧
    nextHas (fun t => !t.interfered && t.status == Status.running) (step (putHost [.writeCtrl 1] stepP1)) = true ∧
    nextHas (fun t => t.interfered && t.status == Status.running && t.width == 4 && t.written.width)
      (step (putHost [.writeWidth 8] stepP1)) = true := by
  refine ⟨?_, ?_, ?_, ?_⟩ <;> decide +kernel

/-- The end of that command (93 U7): it completes, and WIDTH holds what the host read there before. -/
theorem test_settle :
    let s := putHost [.writeWidth 8] stepP1
    let t := complete (disturb laterWidth s)
    t.status = Status.completed ∧ t.interfered = false ∧ t.later = Later.none ∧
      hostRead t .width = hostRead (disturb laterWidth s) .width ∧ t.height = 4 := ⟨rfl, rfl, rfl, rfl, rfl⟩

/-- The words of spec/opcode_table.json, and the step that runs each right after reset. -/
theorem test_table_words :
    (decodeTableWord 2 0).map Instr.kind = some .color ∧ (decodeTableWord 0 0).map Instr.kind = some .alpha ∧
    decodeTableWord 1 1 = some .decode ∧
    decodeTableWord 64 0x402 = some (.cwPlanar (planarFields specPlanarLayout 0x402)) ∧ decodeTableWord 64 2 = 
      some (.cwDiff (diffFields specColorLayout 2)) := by
  decide

theorem test_fetch_word :
    pixels (step (State.reset.withFetchWord 64 0x00000000FF000000)) = List.replicate 16 0xFF0202FF ∧
    statusOf (step (State.reset.withFetchWord 8 1)) = some ⟨false, false, true, 2⟩ := by decide +kernel

/-! ### The container (48_host_container R200 to R207) -/

/-- The words of a header as stored bytes. -/
def headerBytes (ws : List (BitVec 32)) : List Byte :=
  ws.flatMap fun w => [w.extractLsb' 0 8, w.extractLsb' 8 8, w.extractLsb' 16 8, w.extractLsb' 24 8]

/-- A header of the writer's as stored bytes from 0 on. -/
def headerMemory (f : ImageFormat) (width height : BitVec 32) : Memory :=
  placeBytes [] 0 (headerBytes (writtenHeader f width height true))

/-- The opener recovers what the writer wrote (R211), but for code 7 (R201). -/
theorem test_container_open :
    openContainer (headerMemory .etc2Rgba 16 8) 0 260 = .ok ⟨.etc2Rgba, 16, 8, 52, 260⟩ ∧
    openContainer (headerMemory .dxt1 16 8) 0 156 = .error .unsupportedPixelFormat := by
  constructor <;> decide +kernel

/-- X2: the five levels of a 16x16 image, where each starts, and the whole length (R206, R207). -/
theorem test_container_mips :
    (List.range 5).map (levelDims 16 16) = [(16, 16), (8, 8), (4, 4), (2, 2), (1, 1)] ∧
    (List.range 5).map (levelBytes .etc1 16 16) = [128, 32, 8, 8, 8] ∧
    (List.range 5).map (levelStart .etc1 16 16 52) = [52, 180, 212, 220, 228] ∧
    (createContainer .etc1 16 16 true).toOption.map (fun c => (c.totalLength, c.header)) =
      some (236, [0x03525650, 0, 6, 0, 0, 0, 16, 16, 1, 1, 1, 5, 0]) := by decide

/-- R206, R207: a size that is no multiple of 4, and a chain that does not end at 1x1, are `InvalidGeometry`. -/
theorem test_container_geometry :
    createContainer .etc1 18 16 false = .error .invalidGeometry ∧ createContainer .etc1 0 0 true = .error .invalidGeometry ∧
    (createContainer .etc1 0 0 false).toOption.map Created.totalLength = some 52 := by decide

/-- R205: the image of X2 with all its levels, its base level alone, and neither. -/
theorem test_container_valid :
    Container.valid ⟨.etc1, 16, 16, 52, 236⟩ ∧ Container.valid ⟨.etc1, 16, 16, 52, 180⟩ ∧
    ¬ Container.valid ⟨.etc1, 16, 16, 52, 52⟩ ∧ ¬ Container.valid ⟨.etc1, 18, 16, 52, 196⟩ := by decide

/-- A bus write of START, one of `STATUS`, and one where no register stands, under the model's `CSR_MAP` (log 24). -/
theorem test_bus :
    busWrite specConfig 28 1 = some (.writeCtrl 1) ∧ busWrite specConfig 24 1 = none ∧ busWrite specConfig 32 1 = none ∧
    busRead (job 22 8 8 32) 4 = some 8 := by decide

/-! ### Witnesses: the hypotheses of each statement can be met -/

/-- Three words, one per mode; and the command. -/
theorem witness_DecodeEncodeRoundTrip :
    specLayouts specConfig ∧
    (Instr.cwIndiv ⟨⟨1, 2, 3⟩, ⟨4, 5, 6⟩, 1, 2, 1, 3, 4⟩).WellFormed ∧
    (Instr.cwDiff ⟨⟨30, 8, 28⟩, ⟨3, 0, 3⟩, 0, 0, 0, 0, 0⟩).WellFormed ∧
    (Instr.cwPlanar ⟨⟨10, 20, 30⟩, ⟨63, 100, 5⟩, ⟨0, 127, 40⟩, 0, 0, 7, 0⟩).WellFormed ∧
    (Instr.awAlpha ⟨1, 2, 3, 4⟩).WellFormed ∧ Instr.decode.WellFormed := by decide

theorem witness_PlanarSelectedBySixteenPatterns : specConfig.layoutColorLo = specColorLayout := rfl

theorem witness_IndexInterleave : (0 : Nat) < 16 ∧ 15 < 16 := by decide

theorem witness_CwIndivCompletes : tileInRange (tile .rowMajor) ∧ 4 ≤ (tile .rowMajor).width.toNat := by decide
theorem witness_CwPlanarCompletes : tileInRange (tile .colMajor) ∧ 4 ≤ (tile .colMajor).width.toNat := by decide
theorem witness_AwAlphaCompletes : tileInRange (tile .colMajor) ∧ 4 ≤ (tile .colMajor).width.toNat := by decide
theorem witness_AlphaMultiplierZero : tileInRange (tile .rowMajor) ∧ 4 ≤ (tile .rowMajor).width.toNat := by decide

/-- `CW.DIFF`: with base-1 of red at 0 and 31 (in range), and at 33 (free); sub-blocks 0 and 1. -/
theorem witness_CwDiffCompletes :
    tileInRange (tile .rowMajor) ∧ 4 ≤ (tile .rowMajor).width.toNat ∧
    (0 ≤ ((4 : BitVec 5).toNat : Int) + (4 : BitVec 3).toInt ∧ ((4 : BitVec 5).toNat : Int) + (4 : BitVec 3).toInt ≤ 31) ∧
    (0 ≤ ((28 : BitVec 5).toNat : Int) + (3 : BitVec 3).toInt ∧ ((28 : BitVec 5).toNat : Int) + (3 : BitVec 3).toInt ≤ 31) ∧
    ¬ ((word26.c0.r.toNat : Int) + word26.d.r.toInt ≤ 31) ∧
    ((colOf .rowMajor 0 / 2 = 0) ∧ (colOf .rowMajor 2 / 2 ≠ 0)) := by decide

/-- A word of each mode, and an alpha word, on a tile that exists. -/
theorem witness_WorkingValuesFromWord :
    specLayouts (tile .rowMajor).cfg ∧
    (dispatchMode specColorLayout 0xCCCCAAAA1F2E3D7C = .individual ∧ ∃ t, exec (decodeColor specConfig 0xCCCCAAAA1F2E3D7C) (tile .rowMajor) = .next t) ∧
    (dispatchMode specColorLayout 0xF03CCC5A83442756 = .differential ∧ ∃ t, exec (decodeColor specConfig 0xF03CCC5A83442756) (tile .rowMajor) = .next t) ∧
    (dispatchMode specColorLayout 0xC8281FE81428FB7F = .planar ∧ ∃ t, exec (decodeColor specConfig 0xC8281FE81428FB7F) (tile .rowMajor) = .next t) ∧
    ∃ t, exec (decodeAlpha specConfig 0x803D053977053977) (tile .rowMajor) = .next t :=
  ⟨⟨rfl, rfl, rfl⟩, ⟨by decide, exists_next (by decide +kernel)⟩, ⟨by decide, exists_next (by decide +kernel)⟩,
    ⟨by decide, exists_next (by decide +kernel)⟩, exists_next (by decide +kernel)⟩

/-- The step of `CW.DIFF` answers a next state, in range and not. -/
theorem witness_CwDiffWorkingValues :
    (∃ t, exec (.cwDiff ⟨⟨28, 4, 16⟩, ⟨3, 4, 0⟩, 0, 0, 0, 0, 0⟩) (tile .rowMajor) = .next t ∧
      t.work.c1.r = 31 ∧ t.work.c1.g = 0 ∧ t.work.c1.b = 16) ∧
    (∃ t, exec (.cwDiff word26) (tile .rowMajor) = .next t ∧ t.work.c1.r = 33) :=
  ⟨⟨_, rfl, by decide⟩, ⟨_, rfl, by decide⟩⟩

/-- One of the word operations that the frame is about. -/
theorem witness_WordOperationFrame :
    (Instr.awAlpha ⟨255, 0, 0, 0⟩).kind ≠ .command ∧
    (∃ t, exec (.awAlpha ⟨255, 0, 0, 0⟩) (tile .rowMajor) = .next t) ∧ Memory.wf (tile .rowMajor).dst = true ∧
    outsideTile (tile .rowMajor) 64 :=
  ⟨by decide, ⟨_, rfl⟩, rfl, by unfold outsideTile; intro x y hx hy; interval_cases x <;> interval_cases y <;> decide⟩

/-- The last tile that exists, and the first that does not. -/
theorem witness_WordOperationStopsOnlyOutOfRange :
    (Instr.cwIndiv ⟨⟨1, 2, 3⟩, ⟨4, 5, 6⟩, 1, 2, 1, 3, 4⟩).kind ≠ .command ∧
    tileInRange (putCursor ⟨0, 2 ^ 64 - 16, 0, 0⟩ (tile .rowMajor)) ∧
    ¬ tileInRange (putCursor ⟨0, 2 ^ 64 - 15, 0, 0⟩ (tile .rowMajor)) := by decide

theorem witness_ColorIgnoresPriorRaster :
    (Instr.cwIndiv ⟨⟨1, 2, 3⟩, ⟨4, 5, 6⟩, 1, 2, 1, 3, 4⟩).kind = .color ∧ tileInRange (tile .rowMajor) ∧
    4 ≤ (tile .rowMajor).width.toNat := by decide

/-- Idle, each of the formats, geometry and length just enough. -/
theorem witness_DecodeAccepted :
    (job 22 8 8 32).status.busy = false ∧ (job 22 8 8 32).width.toNat % 4 = 0 ∧ (job 22 8 8 32).height.toNat % 4 = 0 ∧
    (job 22 8 8 32).width ≠ 0 ∧ (job 22 8 8 32).height ≠ 0 ∧
    (if (job 22 8 8 32).format = (job 22 8 8 32).cfg.formatCode.etc2Rgba then 16 else 8) *
      (((job 22 8 8 32).width.toNat / 4) * ((job 22 8 8 32).height.toNat / 4)) ≤ (job 22 8 8 32).srcLen ∧
    formatLegal (job 22 8 8 32) ∧ formatLegal (job 6 8 8 32) ∧ formatLegal (job 7 4 4 8) ∧ formatLegal (job 23 8 8 64) := by
  decide

/-- The same under `DXT1_POLICY` = `Refuse`. -/
def refusing (s : State) : State := { s with cfg := { specConfig with dxt1Policy := .refuse } }

/-- The premises of the three refusals under either policy: an unknown format (and `Dxt1` refused); a width of 6; a length
one short, and one just enough. -/
theorem witness_DecodeRefusedInOrder :
    (job 5 6 8 0).status.busy = false ∧ ¬ formatLegal (job 5 6 8 0) ∧ ¬ formatLegal (refusing (job 7 8 8 32)) ∧
    (formatLegal (job 22 6 8 0) ∧ ¬ geometryLegal (job 22 6 8 0)) ∧
    (formatLegal (refusing (job 6 8 2 0)) ∧ ¬ geometryLegal (refusing (job 6 8 2 0))) ∧
    (formatLegal (job 23 8 8 63) ∧ geometryLegal (job 23 8 8 63) ∧
      (job 23 8 8 63).srcLen < 16 * (((job 23 8 8 63).width.toNat / 4) * ((job 23 8 8 63).height.toNat / 4))) ∧
    (formatLegal (refusing (job 22 8 8 31)) ∧ (refusing (job 22 8 8 31)).srcLen < 8 * tiles (refusing (job 22 8 8 31))) ∧
    ¬ (job 22 8 8 32).srcLen < 8 * tiles (job 22 8 8 32) := by decide

theorem witness_Dxt1RefusedUnderPolicy :
    let s := refusing (job 7 4 4 8)
    s.status.busy = false ∧ s.cfg.dxt1Policy = .refuse ∧ s.format = s.cfg.formatCode.dxt1 ∧
      s.cfg.formatCode.dxt1 ≠ s.cfg.formatCode.etc1 ∧ s.cfg.formatCode.dxt1 ≠ s.cfg.formatCode.etc2Rgb ∧
      s.cfg.formatCode.dxt1 ≠ s.cfg.formatCode.etc2Rgba := by decide

theorem witness_DecodeEmptyImage :
    (job 22 0 4 0).status.busy = false ∧ formatLegal (job 22 0 4 0) ∧ (job 22 0 4 0).width.toNat % 4 = 0 ∧
    (job 22 0 4 0).height.toNat % 4 = 0 ∧ (job 22 0 4 0).width = 0 ∧ (job 22 4 0 0).height = 0 := by decide

/-- Accepted, refused, and ignored while BUSY. -/
theorem witness_DecodeFrame :
    (∃ t, exec .decode (job 22 8 8 32) = .next t) ∧ (∃ t, exec .decode (job 22 8 8 31) = .next t) ∧
    (∃ t, exec .decode stepP1 = .next t ∧ stepP1.status.busy = true) := ⟨⟨_, rfl⟩, ⟨_, rfl⟩, ⟨_, rfl, rfl⟩⟩

theorem witness_Dxt1RunsAsEtc1 :
    (stepP1.cfg.dxt1Policy = .literal ∧ stepP1.host = [] ∧ stepP1.later.format = none) ∧
    ((putHost [.writeCtrl 1] (job 7 4 4 8)).cfg.dxt1Policy = .literal ∧
      (putHost [.writeCtrl 1] (job 7 4 4 8)).host = [.writeCtrl 1] ∧ (job 7 4 4 8).later.format = none) ∧
    specConfig.formatCode.etc1 ≠ specConfig.formatCode.etc2Rgba ∧
    specConfig.formatCode.dxt1 ≠ specConfig.formatCode.etc2Rgba := by decide

theorem witness_StepRunsFetchedWord :
    stepP1.host = [] ∧ stepP1.status.busy = true ∧ stepP1.interfered = false ∧ stepP1.phase = .color ∧
    stepP1.cur.srcPtr + 7 < 2 ^ stepP1.cfg.addrBits ∧
    ((List.range 8).map fun k => Memory.load .src stepP1.src (stepP1.cur.srcPtr + k)) =
      [0x83, 0x44, 0x27, 0x56, 0xF0, 0x3C, 0xCC, 0x5A] ∧
    decodeBytes stepP1.cfg .color [0x83, 0x44, 0x27, 0x56, 0xF0, 0x3C, 0xCC, 0x5A] =
      .ok (.cwDiff ⟨⟨16, 8, 4⟩, ⟨3, 4, 7⟩, 2, 5, 0, 0xCC5A, 0xF03C⟩, []) := by decide +kernel

/-- The same for the alpha word of a record. -/
theorem witness_StepRunsFetchedWord_alpha :
    (putPhase .alpha record3).host = [] ∧ record3.status.busy = true ∧ record3.interfered = false ∧
    record3.cur.srcPtr + 7 < 2 ^ record3.cfg.addrBits ∧
    ((List.range 8).map fun k => Memory.load .src record3.src (record3.cur.srcPtr + k)) =
      [0x80, 0x3D, 0x05, 0x39, 0x77, 0x05, 0x39, 0x77] := by decide +kernel

/-- The last fetch that exists, and the first that does not. -/
theorem witness_StepRunsFetchedWord_stops :
    (putCursor ⟨2 ^ 64 - 8, 0, 0, 0⟩ stepP1).host = [] ∧ (putCursor ⟨2 ^ 64 - 8, 0, 0, 0⟩ stepP1).status.busy = true ∧
    fetchInRange (putCursor ⟨2 ^ 64 - 8, 0, 0, 0⟩ stepP1) ∧ ¬ fetchInRange (putCursor ⟨2 ^ 64 - 7, 0, 0, 0⟩ stepP1) := by
  decide

theorem witness_StepRunsCommand :
    (putHost [.writeCtrl 1] (job 22 4 4 8)).host = .writeCtrl 1 :: [] ∧
    (putHost [.writeCtrl 2] (job 22 4 4 8)).host = .writeCtrl 2 :: [] ∧ stepP1.status.busy = true := ⟨rfl, rfl, rfl⟩

theorem witness_IdleAfterReset : State.reset.host = [] ∧ State.reset.status.busy = false := ⟨rfl, rfl⟩

/-- The first of two tiles side by side, and of two tiles one above the other. -/
def wide : State := running 22 8 4 16 [0xFF, 0, 0, 0, 0, 0, 0, 0]
def tall : State := running 22 4 8 16 [0xFF, 0, 0, 0, 0, 0, 0, 0]

/-- At the last tile, inside a row, at the end of a row, and after the colour word of a record of two. -/
theorem witness_CursorAdvance :
    ((∃ t, step stepP1 = .next t) ∧ stepP1.host = [] ∧ stepP1.status.busy = true ∧
      ¬ stepP1.cur.tx + 1 < stepP1.width.toNat / 4) ∧
    ((∃ t, step wide = .next t) ∧ wide.cur.tx + 1 < wide.width.toNat / 4) ∧
    ((∃ t, step tall = .next t) ∧ ¬ tall.cur.tx + 1 < tall.width.toNat / 4 ∧ 1 < tall.height.toNat / 4) ∧
    ((∃ t, step record3 = .next t) ∧ record3.phase = .color ∧ record3.format = 23) :=
  ⟨⟨next_stepP1, rfl, rfl, by decide⟩,
    ⟨exists_next (by decide +kernel), by decide⟩, ⟨exists_next (by decide +kernel), by decide⟩,
    ⟨exists_next (by decide +kernel), rfl, rfl⟩⟩

/-- A busy and an idle state; a state with no later value, and one with each; FORMAT written, WIDTH read. -/
theorem witness_HostConfigWrites :
    stepP1.status.busy = true ∧ (job 22 4 4 8).status.busy = false ∧ (job 22 4 4 8).later = Later.none ∧
    (laterFormat 6 stepP1).later.width = none ∧ hostRead (laterFormat 6 stepP1) .width = 4 ∧
    (laterFormat 6 stepP1).later.format = some 6 ∧ (laterWidth 8 stepP1).later.width = some 8 ∧
    (laterHeight 8 stepP1).later.height = some 8 ∧ (laterSrcBase 1 stepP1).later.srcBase = some 1 ∧
    (laterSrcLen 1 stepP1).later.srcLen = some 1 ∧ (laterDstBase 1 stepP1).later.dstBase = some 1 := by decide

/-- The first and last byte and pixel; inside and outside the running command's regions. -/
theorem witness_HostMemoryAccesses :
    (0 < 2 ^ stepP1.cfg.addrBits ∧ 2 ^ 64 - 1 < 2 ^ stepP1.cfg.addrBits) ∧
    (stepP1.status.busy = true ∧ inSource stepP1 52 ∧ inSource stepP1 59 ∧ ¬ inSource stepP1 60) ∧
    (inRaster stepP1 0 ∧ inRaster stepP1 15 ∧ ¬ inRaster stepP1 16) := by decide

theorem witness_ResetLeavesIdle :
    (putHost [.reset] stepP1).host = .reset :: [] ∧ stepP1.status.busy = true ∧ (job 22 4 4 8).status.busy = false ∧
    ¬ inRaster stepP1 (64 / 4) := by decide

/-- A decoder step with the host quiet. -/
theorem witness_DecoderNeverWritesSource :
    stepP1.hostQuiet ∧ (putHost [.run] stepP1).hostQuiet ∧ (∃ t, step stepP1 = .next t) ∧ stepP1.interfered = false :=
  ⟨by decide, by decide, next_stepP1, rfl⟩

theorem witness_ParametersNeverChange : ∃ t, step (putHost [.reset] stepP1) = .next t := ⟨_, rfl⟩

theorem witness_StepKeepsMemoryForm : stepP1.memoryWf ∧ ∃ t, step (putHost [.writeDst 3 7] stepP1) = .next t :=
  ⟨by decide +kernel, exists_next (by decide +kernel)⟩

theorem witness_StepKeepsStatusLegal :
    stepP1.status.legal ∧ (job 22 8 8 31).status.legal ∧ ∃ t, step (putHost [.writeCtrl 1] (job 22 8 8 31)) = .next t :=
  ⟨.inr (.inl rfl), .inl rfl, ⟨_, rfl⟩⟩

theorem commandInv_stepP1 : stepP1.commandInv := by
  unfold State.commandInv State.launchLegal State.cursorClosed
  decide

theorem witness_StepKeepsCommandInvariant : stepP1.commandInv ∧ ∃ t, step (putHost [.readDst 0] stepP1) = .next t :=
  ⟨commandInv_stepP1, ⟨_, rfl⟩⟩

/-- An undisturbed and a disturbed command. -/
theorem witness_StepKeepsInterferenceInvariant :
    stepP1.interferenceInv ∧ (disturb laterWidth stepP1).interferenceInv ∧
    (∃ t, step (putHost [.writeWidth 8] stepP1) = .next t) ∧ ∃ t, step (putHost [.readDst 0] (disturb laterWidth stepP1)) = .next t := by
  refine ⟨⟨?_, fun _ => rfl⟩, ⟨?_, ?_⟩, ⟨_, rfl⟩, ⟨_, rfl⟩⟩ <;> (intro h; cases h)

theorem witness_NoCodedWordStops :
    stepP1.commandInv ∧ stepP1.status.busy = true ∧ stepP1.regionsExist ∧ stepP1.hostQuiet :=
  ⟨commandInv_stepP1, rfl, by decide, by decide⟩

theorem witness_CommandWritesOnlyRaster :
    stepP1.commandInv ∧ stepP1.status.busy = true ∧ stepP1.hostQuiet ∧ (∃ t, step stepP1 = .next t) ∧ ¬ inRaster stepP1 (64 / 4) :=
  ⟨commandInv_stepP1, rfl, by decide, next_stepP1, by decide⟩

/-- The header of a 16x8 image that the opener accepts, and of one it refuses. -/
theorem witness_WrittenHeaderOpens :
    ((List.range 13).all fun n => (writtenHeader .etc2Rgba 16 8 true)[n]? ==
      some (headerWord (headerMemory .etc2Rgba 16 8) 0 n)) = true ∧
    ((List.range 13).all fun n => (writtenHeader .dxt1 16 8 true)[n]? ==
      some (headerWord (headerMemory .dxt1 16 8) 0 n)) = true := by
  constructor <;> decide +kernel

/-- The smallest size, one whose levels are odd in both directions, and the largest. -/
theorem witness_CreatedLevels :
    ((4 : BitVec 32).toNat % 4 = 0 ∧ (4 : BitVec 32) ≠ 0) ∧ ((20 : BitVec 32).toNat % 4 = 0 ∧ (20 : BitVec 32) ≠ 0) ∧
    ((0xFFFFFFFC : BitVec 32).toNat % 4 = 0 ∧ (0xFFFFFFFC : BitVec 32) ≠ 0) := by decide

/-- Each harmless access at the bounds of the command's regions and of the address space. -/
theorem witness_ExclusiveAccessesHarmless :
    stepP1.status.busy = true ∧ HostEvent.harmless stepP1 (.writeCtrl 1) ∧ HostEvent.harmless stepP1 (.writeSrc 51 0) ∧
    HostEvent.harmless stepP1 (.writeSrc 60 0) ∧ HostEvent.harmless stepP1 (.writeSrc (2 ^ 64 - 1) 0) ∧
    HostEvent.harmless stepP1 (.writeDst 16 0) ∧ HostEvent.harmless stepP1 (.readDst 16) ∧
    ¬ HostEvent.harmless stepP1 (.writeSrc 59 0) ∧ ¬ HostEvent.harmless stepP1 (.readDst 15) ∧
    inSource stepP1 52 ∧ inRaster stepP1 (63 / 4) := by
  unfold HostEvent.harmless
  decide

theorem witness_PixelLanes : specConfig.pixelLayout = .rgba := rfl

/-- One image per record size, and an empty one, nobody else acting; a launch premise with accesses of the host to come. -/
theorem witness_launch (s : State) (h : s = job 22 8 8 32 ∨ s = job 23 8 8 64 ∨ s = job 22 0 4 0) :
    s.launchPremise ∧ s.launchLegal ∧ s.hostQuiet := by
  rcases h with rfl | rfl | rfl <;>
    exact ⟨⟨by decide, rfl, by decide, fun e he => by cases he⟩, by decide, by decide⟩

/-- `P-excl` ends with DONE: after the four steps of this command the host reads the raster and sets up the next. -/
theorem witness_launch_exclusive :
    (putHost [.readDst 64, .run, .writeSrc 51 0, .run, .run, .run, .readDst 0, .writeWidth 4] (job 22 8 8 32)).launchPremise := by
  refine ⟨by decide, rfl, by decide, ?_⟩
  unfold State.exclusive
  rw [show eventsDuring _ _ = [.readDst 64, .run, .writeSrc 51 0, .run, .run, .run] by decide]
  intro e he
  simp only [List.mem_cons, List.not_mem_nil, or_false] at he
  rcases he with rfl | rfl | rfl | rfl | rfl | rfl <;> unfold HostEvent.harmless <;> decide

/-- Before DONE it may not. -/
theorem witness_launch_not_exclusive :
    ¬ (putHost [.run, .run, .run, .readDst 0, .run] (job 22 8 8 32)).exclusive := fun h =>
  absurd (h (.readDst 0) (by decide)) (by unfold HostEvent.harmless; decide)

theorem witness_CommandEnds :
    ((job 22 8 8 32).launchPremise ∧ (job 22 8 8 32).launchLegal ∧ (job 22 8 8 32).hostQuiet) ∧
    ((job 22 0 4 0).launchPremise ∧ (job 22 0 4 0).launchLegal ∧ (job 22 0 4 0).hostQuiet) ∧
    3 < (job 22 8 8 32).wordSteps ∧ 7 < (job 23 8 8 64).wordSteps :=
  ⟨witness_launch _ (.inl rfl), witness_launch _ (.inr (.inr rfl)), by decide, by decide⟩

/-- One image per record size; of an individual word no byte is open, of the word of V26 only red in sub-block 1. -/
theorem witness_RasterIsDecodedImage :
    ((job 22 8 8 32).launchPremise ∧ (job 22 8 8 32).launchLegal ∧ (job 22 8 8 32).hostQuiet) ∧
    ((job 23 8 8 64).launchPremise ∧ (job 23 8 8 64).launchLegal ∧ (job 23 8 8 64).hostQuiet) ∧
    1 < (job 23 8 8 64).width.toNat / 4 ∧ openChannels specConfig (decodeColor specConfig 0xCCCCAAAA1F2E3D7C) 15 = noneOpen ∧
    openChannels specConfig (.cwDiff word26) 1 = noneOpen ∧ openChannels specConfig (.cwDiff word26) 2 = ⟨true, false, false⟩ :=
  ⟨witness_launch _ (.inl rfl), witness_launch _ (.inr (.inl rfl)), by decide, by decide, by decide, by decide⟩

theorem witness_AlphaOverColor :
    record3.commandInv ∧ record3.status.busy = true ∧ record3.regionsExist ∧ record3.host = [] ∧
    record3.interfered = false ∧ record3.phase = .color ∧ record3.format = record3.cfg.formatCode.etc2Rgba ∧
    decodeAlpha record3.cfg (tileAlphaWord record3 record3.cur.tx record3.cur.ty) =
      .awAlpha ⟨128, 3, 13, 0x053977053977⟩ := by
  refine ⟨?_, rfl, by decide, rfl, rfl, rfl, rfl, by decide +kernel⟩
  unfold State.commandInv State.launchLegal State.cursorClosed
  decide

end Sys2Proof.Tests
end

/-! The parameter values of 00_scope R14: the two tables entry by entry, and what the machine holds at reset. -/

namespace Sys2Proof.Machine

/-- The 32 entries of `ROM_C` (10_state R40), row by row. -/
theorem romC_toLists :
    romC.toList.map Vector.toList =
      [[2, 8, -2, -8], [5, 17, -5, -17], [9, 29, -9, -29], [13, 42, -13, -42],
        [18, 60, -18, -60], [24, 80, -24, -80], [33, 106, -33, -106], [47, 183, -47, -183]] := rfl

/-- The 128 entries of `ROM_A` (10_state R41), row by row. -/
theorem romA_toLists :
    romA.toList.map Vector.toList =
      [[-3, -6, -9, -15, 2, 5, 8, 14], [-3, -7, -10, -13, 2, 6, 9, 12], [-2, -5, -8, -13, 1, 4, 7, 12],
        [-2, -4, -6, -13, 1, 3, 5, 12], [-3, -6, -8, -12, 2, 5, 7, 11], [-3, -7, -9, -11, 2, 6, 8, 10],
        [-4, -7, -8, -11, 3, 6, 7, 10], [-3, -5, -8, -11, 2, 4, 7, 10], [-2, -6, -8, -10, 1, 5, 7, 9],
        [-2, -5, -8, -10, 1, 4, 7, 9], [-2, -4, -8, -10, 1, 3, 7, 9], [-2, -5, -7, -10, 1, 4, 6, 9],
        [-3, -4, -7, -10, 2, 3, 6, 9], [-1, -2, -3, -10, 0, 1, 2, 9], [-4, -6, -8, -9, 3, 5, 7, 8],
        [-3, -5, -7, -9, 2, 4, 6, 8]] := rfl

@[simp] theorem State.reset_cfg : State.reset.cfg = specConfig := rfl

/-- The parameter values of R14 have the layouts of the spec (30_encoding R83, R84, R86, R87). -/
theorem specConfig_specLayouts : specLayouts specConfig := ⟨rfl, rfl, rfl⟩

/-- Settles O47: a parameter whose type has one value is read by that type's law, the layouts and the tables by the lemmas
above, and each remaining parameter is a field of `specConfig`. -/
theorem parametersAtReset : Obligations.ParametersAtReset := by
  unfold Obligations.ParametersAtReset
  rw [State.reset_cfg]
  obtain ⟨hcolor, hplanar, halpha⟩ := specConfig_specLayouts
  exact ⟨WordBits.bits_eq _, TileSide.toNat_eq _, TileSide.toNat_eq _, PixelBits.bits_eq _,
    PixelLayout.r_eq _, PixelLayout.g_eq _, PixelLayout.b_eq _, PixelLayout.a_eq _,
    rfl, rfl, rfl, rfl, rfl, rfl, rfl, hcolor, hplanar, halpha, romC_toLists, romA_toLists⟩

end Sys2Proof.Machine

/-! The machine's registers and `STATUS`: what each host access, each word operation and each step leaves of them
(10_state). -/

namespace Sys2Proof.Machine

/-! ### `STATUS` and the parameters through one step -/

theorem ConfigStep.cfg_eq {s t : State} (h : ConfigStep s t) : t.cfg = s.cfg := by
  rcases h with ⟨v, rfl⟩ | ⟨v, rfl⟩ | ⟨v, rfl⟩ | ⟨v, rfl⟩ | ⟨v, rfl⟩ | ⟨v, rfl⟩ <;> rfl

theorem ConfigStep.status_eq {s t : State} (h : ConfigStep s t) : t.status = s.status := by
  rcases h with ⟨v, rfl⟩ | ⟨v, rfl⟩ | ⟨v, rfl⟩ | ⟨v, rfl⟩ | ⟨v, rfl⟩ | ⟨v, rfl⟩ <;> rfl

theorem LaterStep.cfg_eq {n : Nat} {s t : State} (h : LaterStep n s t) : t.cfg = s.cfg := by
  rcases h with rfl | rfl | rfl | rfl | rfl | rfl <;> rfl

theorem LaterStep.status_eq {n : Nat} {s t : State} (h : LaterStep n s t) : t.status = s.status := by
  rcases h with rfl | rfl | rfl | rfl | rfl | rfl <;> rfl

theorem execDecode_cfg {s t : State} (h : execDecode s = .next t) : t.cfg = s.cfg := by
  rcases execDecode_cases s with ⟨-, hx⟩ | ⟨-, e, -, hx⟩ | ⟨-, -, hx⟩ <;> cases hx.symm.trans h
  · rfl
  · rfl
  · rw [accept_cfg, clearFlags_cfg]

/-- An accepted command runs, or, with no tile to decode, is complete (45_sequencer R181, R192). -/
theorem accept_status (s : State) : (accept s).status = Status.running ∨ (accept s).status = Status.completed := by
  unfold accept
  split
  · exact .inr (complete_status _)
  · exact .inl rfl

/-- A `DECODE` is ignored, or leaves one of the legal values in `STATUS`. -/
theorem execDecode_status {s t : State} (h : execDecode s = .next t) : t.status = s.status ∨ t.status.legal := by
  rcases execDecode_cases s with ⟨-, hx⟩ | ⟨-, e, -, hx⟩ | ⟨-, -, hx⟩ <;> cases hx.symm.trans h
  · exact .inl rfl
  · exact .inr (.inr (.inr (.inr ⟨e, rfl⟩)))
  · exact .inr (.inr ((accept_status _).imp_right .inl))

/-- The end of a word leaves `STATUS` alone unless it ends the command. -/
theorem wordDone_status (s : State) : (wordDone s).status = s.status ∨ (wordDone s).status = Status.completed := by
  unfold wordDone tileDone
  split
  · exact .inl rfl
  · split
    · exact .inl rfl
    · exact .inr (complete_status _)

/-- No move touches the parameters (10_state R42). -/
theorem Move.cfg_eq {s t : State} (h : Move s t) : t.cfg = s.cfg := by
  cases h with
  | decoder h =>
    cases h with
    | idle hb h => rw [h]
    | word hb hf hr wk n m hx hwf hm h =>
      rw [h, wordDone_cfg, putDst_cfg, putFree_cfg, putWork_cfg, fetched_cfg]
  | launch h => exact execDecode_cfg h
  | nothing h => rw [h]
  | config hb h => exact h.cfg_eq
  | disturb hb u hu h => rw [h, putInterfered_cfg, putFree_cfg, hu.cfg_eq]
  | writeSrc a v ha h => rw [h, putSrc_cfg, noteTouch_cfg]
  | writeDst p v hp h => rw [h, putDst_cfg, noteTouch_cfg]
  | readDst p hp h => rw [h, noteTouch_cfg]
  | reset h => rw [h, resetMachine_cfg]

/-- Every move keeps `STATUS` or gives it one of the legal values: the decoder's last word completes the command, a launch
sets it, a reset clears it, and nothing else writes it. -/
theorem Move.status_cases {s t : State} (h : Move s t) : t.status = s.status ∨ t.status.legal := by
  cases h with
  | decoder h =>
    cases h with
    | idle hb h => exact .inl (by rw [h])
    | word hb hf hr wk n m hx hwf hm h =>
      rw [h]
      exact (wordDone_status _).imp_right fun hc => .inr (.inr (.inl hc))
  | launch h => exact execDecode_status h
  | nothing h => exact .inl (by rw [h])
  | config hb h => exact .inl h.status_eq
  | disturb hb u hu h => exact .inl (by rw [h, putInterfered_status, putFree_status, hu.status_eq])
  | writeSrc a v ha h => exact .inl (by rw [h, putSrc_status, noteTouch_status])
  | writeDst p v hp h => exact .inl (by rw [h, putDst_status, noteTouch_status])
  | readDst p hp h => exact .inl (by rw [h, noteTouch_status])
  | reset h => exact .inr (.inl (by rw [h]; rfl))

/-- The six words a legal `STATUS` reads as (10_state R28, 60_exceptions R231). -/
theorem Status.legal.toWord_cases {st : Status} (h : st.legal) :
    st.toWord.toNat = 0 ∨ st.toWord.toNat = 1 ∨ st.toWord.toNat = 2 ∨
      st.toWord.toNat = 0x24 ∨ st.toWord.toNat = 0x34 ∨ st.toWord.toNat = 0x54 := by
  rcases h with rfl | rfl | rfl | ⟨e, rfl⟩
  · decide
  · decide
  · decide
  · cases e <;> decide

/-- Settles O37: every move keeps `STATUS` or gives it a legal value, and a legal value reads as one of the six words. -/
theorem stepKeepsStatusLegal : Obligations.StepKeepsStatusLegal := by
  intro s t hs h
  have ht : t.status.legal := by
    rcases (step_next_cases h).status_cases with he | hl
    · exact he ▸ hs
    · exact hl
  exact ⟨ht, ht.toWord_cases⟩

/-- Settles O32, by the inversion of `step`. -/
theorem parametersNeverChange : Obligations.ParametersNeverChange :=
  fun _ _ h => (step_next_cases h).cfg_eq

/-! ### Word operations -/

/-- Settles O15: a word operation that does not stop changes only working values, the free-value counter and the tile. -/
theorem wordOperationFrame : Obligations.WordOperationFrame := by
  intro i s t hi h
  rcases exec_word_cases i s hi with ⟨-, hx⟩ | ⟨-, wk, n, m, hx, hwf, hm⟩ <;> cases hx.symm.trans h
  exact ⟨wordFrame_put s wk n m (hm .dst), hwf⟩

/-! ### One step, by the host's next event -/

/-- With a host event pending, the step is the host's. -/
theorem step_of_host_cons {s : State} {e : HostEvent} {rest : List HostEvent} (h : s.host = e :: rest) :
    step s = runPlan (hostPlan e (putHost rest s)) := by
  unfold step plan
  rw [h]

/-- With none pending, the step is the decoder's. -/
theorem step_of_host_nil {s : State} (h : s.host = []) : step s = runPlan (decoderPlan s) := by
  unfold step plan
  rw [h]

/-- Idle and with nothing pending, the step changes nothing. -/
theorem step_of_idle {s : State} (hh : s.host = []) (hb : s.status.busy = false) : step s = .next s := by
  rw [step_of_host_nil hh, decoderPlan, hb]
  rfl

/-- Bit 0 of the value written to CTRL is START. -/
theorem decodeCommand_eq (v : BitVec 32) :
    decodeCommand v = if v.getLsbD 0 then .ok .decode else .error .notStart := by
  simp only [decodeCommand, BitVec.getLsbD_eq_extractLsb', beq_iff_eq]

/-- A step adds nothing after the command. -/
theorem runPlan_decode (s : State) : runPlan (.instr .decode s) = exec .decode s := by
  rw [runPlan]
  cases exec .decode s <;> rfl

theorem runPlan_ctrlPlan (v : BitVec 32) (s : State) :
    runPlan (ctrlPlan v s) = if v.getLsbD 0 then exec .decode s else .next s := by
  rw [ctrlPlan, decodeCommand_eq]
  cases v.getLsbD 0 with
  | true => exact runPlan_decode s
  | false => rfl

/-- `DECODE` is ignored while BUSY = 1 (10_state R29). -/
theorem exec_decode_of_busy {s : State} (h : s.status.busy = true) : exec .decode s = .next s := if_pos h

/-- Settles O25: the step is the host's write of CTRL, and `DECODE` while BUSY is the identity. -/
theorem stepRunsCommand : Obligations.StepRunsCommand := by
  intro s v rest hh
  have hstep : step s = if v.getLsbD 0 then exec .decode (putHost rest s) else .next (putHost rest s) :=
    (step_of_host_cons hh).trans (runPlan_ctrlPlan v _)
  refine ⟨hstep, fun hb => ?_, rfl⟩
  rw [hstep, exec_decode_of_busy (s := putHost rest s) hb, ite_self]

/-- Settles O26: the idle step, and the fields of `State.reset`. -/
theorem idleAfterReset : Obligations.IdleAfterReset :=
  ⟨fun _ hh hb => step_of_idle hh hb, rfl, by decide, rfl, rfl, rfl⟩

/-! ### Configuration registers -/

theorem configWrite_of_idle (now : State → State) (later : Nat → State → State) {s : State}
    (h : s.status.busy = false) : configWrite now later s = .next (now s) := by
  simp [configWrite, h]

theorem configWrite_of_busy (now : State → State) (later : Nat → State → State) {s : State}
    (h : s.status.busy = true) : configWrite now later s = .next (disturb later s) := by
  simp [configWrite, h]

/-- The step of a configuration write: `now` while idle, `disturb later` while BUSY. -/
theorem step_configWrite {e : HostEvent} {now : State → State} {later : Nat → State → State}
    (s : State) (rest : List HostEvent) (he : ∀ u, hostPlan e u = .direct (configWrite now later u)) :
    (s.status.busy = false → step (putHost (e :: rest) s) = .next (now (putHost rest s))) ∧
    (s.status.busy = true → step (putHost (e :: rest) s) = .next (disturb later (putHost rest s))) := by
  have hstep : step (putHost (e :: rest) s) = configWrite now later (putHost rest s) :=
    (step_of_host_cons (putHost_host _ _)).trans (congrArg runPlan (he _))
  rw [hstep]
  exact ⟨fun hb => configWrite_of_idle now later hb, fun hb => configWrite_of_busy now later hb⟩

/-- A register not written during the command reads as it is, whatever later values the others have. -/
theorem hostRead_of_no_later (s : State) :
    (s.later.format = none → hostRead s .format = s.format.toNat) ∧
    (s.later.width = none → hostRead s .width = s.width.toNat) ∧
    (s.later.height = none → hostRead s .height = s.height.toNat) ∧
    (s.later.srcBase = none → hostRead s .srcBase = s.srcBase) ∧
    (s.later.srcLen = none → hostRead s .srcLen = s.srcLen) ∧
    (s.later.dstBase = none → hostRead s .dstBase = s.dstBase) := by
  refine ⟨?_, ?_, ?_, ?_, ?_, ?_⟩ <;> intro h <;> simp [hostRead, h]

/-- A register written during the command reads as its later value. -/
theorem hostRead_of_later (s : State) :
    (∀ x, s.later.format = some x → hostRead s .format = x.toNat) ∧
    (∀ x, s.later.width = some x → hostRead s .width = x.toNat) ∧
    (∀ x, s.later.height = some x → hostRead s .height = x.toNat) ∧
    (∀ x, s.later.srcBase = some x → hostRead s .srcBase = x) ∧
    (∀ x, s.later.srcLen = some x → hostRead s .srcLen = x) ∧
    (∀ x, s.later.dstBase = some x → hostRead s .dstBase = x) := by
  refine ⟨?_, ?_, ?_, ?_, ?_, ?_⟩ <;> intro x h <;> simp [hostRead, h]

/-- Settles O28: each write is one `configWrite`, whose idle and busy cases are the two clauses; the reads are those of
`hostRead`. -/
theorem hostConfigWrites : Obligations.HostConfigWrites := by
  refine ⟨fun s rest v n => ?_, fun s => ?_⟩
  · obtain ⟨fIdle, fBusy⟩ := step_configWrite (e := .writeFormat v) s rest fun _ => rfl
    obtain ⟨wIdle, wBusy⟩ := step_configWrite (e := .writeWidth v) s rest fun _ => rfl
    obtain ⟨hIdle, hBusy⟩ := step_configWrite (e := .writeHeight v) s rest fun _ => rfl
    obtain ⟨bIdle, bBusy⟩ := step_configWrite (e := .writeSrcBase n) s rest fun _ => rfl
    obtain ⟨lIdle, lBusy⟩ := step_configWrite (e := .writeSrcLen n) s rest fun _ => rfl
    obtain ⟨dIdle, dBusy⟩ := step_configWrite (e := .writeDstBase n) s rest fun _ => rfl
    exact ⟨⟨fIdle, fun hb => ⟨_, ⟨_, rfl⟩, fBusy hb⟩⟩, ⟨wIdle, fun hb => ⟨_, ⟨_, rfl⟩, wBusy hb⟩⟩,
      ⟨hIdle, fun hb => ⟨_, ⟨_, rfl⟩, hBusy hb⟩⟩, ⟨bIdle, fun hb => ⟨_, ⟨_, rfl⟩, bBusy hb⟩⟩,
      ⟨lIdle, fun hb => ⟨_, ⟨_, rfl⟩, lBusy hb⟩⟩, ⟨dIdle, fun hb => ⟨_, ⟨_, rfl⟩, dBusy hb⟩⟩⟩
  · obtain ⟨nf, nw, nh, nb, nl, nd⟩ := hostRead_of_no_later s
    exact ⟨nf, nw, nh, nb, nl, nd, hostRead_of_later s⟩

/-! ### `STATUS` as a word -/

/-- The bits of the word the host reads from `STATUS` (10_state R28): above bit 3 stands ERRCODE, and above it nothing. -/
theorem Status.toWord_bits (st : Status) :
    st.toWord.getLsbD 0 = st.busy ∧ st.toWord.getLsbD 1 = st.done ∧ st.toWord.getLsbD 2 = st.err ∧
      st.toWord.getLsbD 3 = false ∧ ∀ k, st.toWord.getLsbD (4 + k) = st.errcode.getLsbD k := by
  have hbit : ∀ k, st.toWord.getLsbD k = BitVec.getLsbD (w := 25 + 3 + 1 + 1 + 1 + 1)
      (0#25 ++ st.errcode ++ 0#1 ++ BitVec.ofBool st.err ++ BitVec.ofBool st.done ++ BitVec.ofBool st.busy) k :=
    fun _ => rfl
  simp only [hbit, BitVec.getLsbD_append, BitVec.getLsbD_ofBool]
  refine ⟨by simp, by simp, by simp, by simp, fun k => ?_⟩
  rw [Nat.add_comm 4 k]
  simpa using BitVec.lt_of_getLsbD

/-- Settles O33: bits 6:4 are the bits of ERRCODE, and a bit from 7 on is one it does not have. -/
theorem statusWordLayout : Obligations.StatusWordLayout := by
  intro s
  obtain ⟨hbusy, hdone, herr, hzero, hcode⟩ := s.status.toWord_bits
  refine ⟨hbusy, hdone, herr, ?_, ?_, rfl, rfl⟩
  · apply BitVec.eq_of_getLsbD_eq
    intro i hi
    rw [BitVec.getLsbD_extractLsb', hcode, decide_eq_true hi, Bool.true_and]
  · rintro k (rfl | hk)
    · exact hzero
    · obtain ⟨j, rfl⟩ := Nat.exists_eq_add_of_le (show 4 ≤ k by omega)
      exact (hcode j).trans (BitVec.getLsbD_of_ge _ _ (by omega))

/-! ### Reset -/

/-- Settles O35: the memories list no byte, `STATUS` is idle, no command runs, and nothing is marked. -/
theorem invariantsAtReset : Obligations.InvariantsAtReset :=
  ⟨⟨rfl, rfl⟩, .inl rfl, ⟨nofun, nofun⟩, fun _ => rfl, fun _ => rfl⟩

end Sys2Proof.Machine

/-! The memories and the byte order (20_memory): where the stored bytes of a word and the channels of a pixel lie, that
every step keeps both memories in canonical form, and what the decoder never writes. -/

namespace Sys2Proof

/-! ### Byte order -/

/-- `bswap32` turns four bytes round (00_scope R16). -/
theorem bswap32_append (b0 b1 b2 b3 : Byte) : bswap32 (b0 ++ b1 ++ b2 ++ b3) = b3 ++ b2 ++ b1 ++ b0 := by
  apply BitVec.eq_of_getLsbD_eq
  intro i hi
  simp only [bswap32, BitVec.getLsbD_append, BitVec.getLsbD_extractLsb']
  interval_cases i <;> simp

theorem append_four_bytes (x : BitVec 32) (b0 b1 b2 b3 : Byte) :
    x ++ (b0 ++ b1 ++ b2 ++ b3) = x ++ b0 ++ b1 ++ b2 ++ b3 := by
  rw [BitVec.append_assoc', BitVec.append_assoc', BitVec.append_assoc']
  rfl

/-- The two 32-bit halves of a loaded word. -/
theorem loadWord_halves (b0 b1 b2 b3 b4 b5 b6 b7 : Byte) :
    loadWord b0 b1 b2 b3 b4 b5 b6 b7 = (b7 ++ b6 ++ b5 ++ b4) ++ (b3 ++ b2 ++ b1 ++ b0) :=
  (append_four_bytes _ _ _ _ _).symm

/-- `NORM_C` swaps each half in place (40_normalize R111). -/
theorem normC_append (high low : BitVec 32) : normC (high ++ low) = bswap32 high ++ bswap32 low := by
  rw [normC, BitVec.extractLsb'_append_eq_right, BitVec.extractLsb'_append_eq_left]

/-- `NORM_A` swaps each half and exchanges the two (40_normalize R112, R113). -/
theorem normA_append (high low : BitVec 32) : normA (high ++ low) = bswap32 low ++ bswap32 high := by
  apply BitVec.eq_of_getLsbD_eq
  intro i hi
  simp only [normA, bswap64, bswap32, BitVec.getLsbD_append, BitVec.getLsbD_extractLsb']
  interval_cases i <;> simp

theorem normC_loadWord (b0 b1 b2 b3 b4 b5 b6 b7 : Byte) :
    normC (loadWord b0 b1 b2 b3 b4 b5 b6 b7) = b4 ++ b5 ++ b6 ++ b7 ++ b0 ++ b1 ++ b2 ++ b3 := by
  rw [loadWord_halves, normC_append, bswap32_append, bswap32_append, append_four_bytes]

theorem normA_loadWord (b0 b1 b2 b3 b4 b5 b6 b7 : Byte) :
    normA (loadWord b0 b1 b2 b3 b4 b5 b6 b7) = b0 ++ b1 ++ b2 ++ b3 ++ b4 ++ b5 ++ b6 ++ b7 := by
  rw [loadWord_halves, normA_append, bswap32_append, bswap32_append, append_four_bytes]

end Sys2Proof

namespace Sys2Proof.Machine

/-- Settles O5: a loaded word is two halves of four bytes; the two rules swap each, and `NORM_A` exchanges them. -/
theorem netBytePlacement : Obligations.NetBytePlacement := fun b0 b1 b2 b3 b4 b5 b6 b7 =>
  ⟨normC_loadWord b0 b1 b2 b3 b4 b5 b6 b7, normA_loadWord b0 b1 b2 b3 b4 b5 b6 b7⟩

/-- Settles O48: the lanes of `pack` and of an alpha update, channel by channel. -/
theorem pixelLanes : Obligations.PixelLanes := fun l r g b a v =>
  ⟨pack_red l r g b a, pack_green l r g b a, pack_blue l r g b a, pack_alpha l r g b a, withAlpha_alpha l v a,
    withAlpha_color l v a⟩

/-! ### The canonical form of the memories -/

theorem ConfigStep.src_eq {s t : State} (h : ConfigStep s t) : t.src = s.src := by
  rcases h with ⟨v, rfl⟩ | ⟨v, rfl⟩ | ⟨v, rfl⟩ | ⟨v, rfl⟩ | ⟨v, rfl⟩ | ⟨v, rfl⟩ <;> rfl

theorem ConfigStep.dst_eq {s t : State} (h : ConfigStep s t) : t.dst = s.dst := by
  rcases h with ⟨v, rfl⟩ | ⟨v, rfl⟩ | ⟨v, rfl⟩ | ⟨v, rfl⟩ | ⟨v, rfl⟩ | ⟨v, rfl⟩ <;> rfl

theorem LaterStep.src_eq {n : Nat} {s t : State} (h : LaterStep n s t) : t.src = s.src := by
  rcases h with rfl | rfl | rfl | rfl | rfl | rfl <;> rfl

theorem LaterStep.dst_eq {n : Nat} {s t : State} (h : LaterStep n s t) : t.dst = s.dst := by
  rcases h with rfl | rfl | rfl | rfl | rfl | rfl <;> rfl

/-- A launch, refused, accepted or ignored, touches no memory. -/
theorem execDecode_memory {s t : State} (h : execDecode s = .next t) : t.src = s.src ∧ t.dst = s.dst := by
  rcases execDecode_cases s with ⟨-, hx⟩ | ⟨-, e, -, hx⟩ | ⟨-, -, hx⟩ <;> cases hx.symm.trans h
  · exact ⟨rfl, rfl⟩
  · exact ⟨rfl, rfl⟩
  · exact ⟨accept_src _, accept_dst _⟩

theorem memoryWf_congr {s t : State} (hs : t.src = s.src) (hd : t.dst = s.dst) : t.memoryWf ↔ s.memoryWf := by
  rw [State.memoryWf, hs, hd]

theorem scrambleRaster_dst_wf {s : State} (h : Memory.wf s.dst = true) : Memory.wf (scrambleRaster s).dst = true :=
  scramble_wf _ _ _ _ _ h

theorem complete_dst_wf {s : State} (h : Memory.wf s.dst = true) : Memory.wf (complete s).dst = true := by
  rw [complete_dst]
  split
  · exact scrambleRaster_dst_wf h
  · exact h

/-- The end of a word writes DST only by the completion of a disturbed command. -/
theorem wordDone_dst_wf {s : State} (h : Memory.wf s.dst = true) : Memory.wf (wordDone s).dst = true := by
  unfold wordDone tileDone
  split
  · exact h
  · split
    · exact h
    · exact complete_dst_wf h

theorem resetMachine_dst_wf {s : State} (h : Memory.wf s.dst = true) : Memory.wf (resetMachine s).dst = true := by
  unfold resetMachine
  cases s.status.busy with
  | true => exact scrambleRaster_dst_wf h
  | false => exact h

/-- Every move writes the memories by stores alone, each of which keeps the canonical form: one byte of SRC, one pixel or
one tile of DST, or the free pixels of a raster. -/
theorem Move.memoryWf {s t : State} (h : Move s t) (hw : s.memoryWf) : t.memoryWf := by
  obtain ⟨hsrc, hdst⟩ := hw
  cases h with
  | decoder h =>
    cases h with
    | idle hb h => exact h ▸ ⟨hsrc, hdst⟩
    | word hb hf hr wk n m hx hwf hm h =>
      rw [h, State.memoryWf, wordDone_src]
      exact ⟨hsrc, wordDone_dst_wf (hwf hdst)⟩
  | launch h =>
    obtain ⟨hs, hd⟩ := execDecode_memory h
    exact (memoryWf_congr hs hd).2 ⟨hsrc, hdst⟩
  | nothing h => exact h ▸ ⟨hsrc, hdst⟩
  | config hb h => exact (memoryWf_congr h.src_eq h.dst_eq).2 ⟨hsrc, hdst⟩
  | disturb hb u hu h => exact h ▸ (memoryWf_congr hu.src_eq hu.dst_eq).2 ⟨hsrc, hdst⟩
  | writeSrc a v ha h =>
    rw [h, State.memoryWf, putSrc_src, putSrc_dst, noteTouch_dst]
    exact ⟨Memory.write_wf _ _ _ hsrc, hdst⟩
  | writeDst p v hp h =>
    rw [h, State.memoryWf, putDst_src, putDst_dst, noteTouch_src]
    exact ⟨hsrc, writePixel_wf _ _ _ hdst⟩
  | readDst p hp h => exact h ▸ (memoryWf_congr (noteTouch_src _ _) (noteTouch_dst _ _)).2 ⟨hsrc, hdst⟩
  | reset h => exact h ▸ ⟨hsrc, resetMachine_dst_wf hdst⟩

/-- Settles O36, by the inversion of `step`. -/
theorem stepKeepsMemoryForm : Obligations.StepKeepsMemoryForm :=
  fun _ _ hw h => (step_next_cases h).memoryWf hw

/-! ### What the decoder leaves alone -/

theorem sameConfig_trans {s t u : State} (h : sameConfig s t) (h' : sameConfig t u) : sameConfig s u := by
  obtain ⟨hc, hf, hw, hh, hb, hl, hd, hwr, hlt⟩ := h
  obtain ⟨hc', hf', hw', hh', hb', hl', hd', hwr', hlt'⟩ := h'
  exact ⟨hc'.trans hc, hf'.trans hf, hw'.trans hw, hh'.trans hh, hb'.trans hb, hl'.trans hl, hd'.trans hd,
    hwr'.trans hwr, hlt'.trans hlt⟩

/-- What the host reads of a register other than `STATUS` depends on the configuration and its later values alone. -/
theorem hostRead_congr {s t : State} (h : sameConfig s t) {r : HostReg} (hr : r ≠ .status) :
    hostRead t r = hostRead s r := by
  obtain ⟨-, hf, hw, hh, hb, hl, hd, -, hlater⟩ := h
  cases r with
  | format => rw [hostRead, hostRead, hf, hlater]
  | width => rw [hostRead, hostRead, hw, hlater]
  | height => rw [hostRead, hostRead, hh, hlater]
  | srcBase => rw [hostRead, hostRead, hb, hlater]
  | srcLen => rw [hostRead, hostRead, hl, hlater]
  | dstBase => rw [hostRead, hostRead, hd, hlater]
  | status => exact absurd rfl hr
  | ctrl => rfl

theorem popHost_sameConfig (s : State) : sameConfig s (popHost s) :=
  ⟨rfl, rfl, rfl, rfl, rfl, rfl, rfl, rfl, rfl⟩

theorem fetched_sameConfig (s : State) : sameConfig s (fetched s) :=
  ⟨fetched_cfg s, fetched_format s, fetched_width s, fetched_height s, fetched_srcBase s, fetched_srcLen s,
    fetched_dstBase s, fetched_written s, fetched_later s⟩

/-- A fetch and the stores of its word leave the configuration alone. -/
theorem fetched_put_sameConfig (s : State) (wk : Work) (n : Nat) (m : Memory) :
    sameConfig s (putDst m (putFree n (putWork wk (fetched s)))) := fetched_sameConfig s

theorem DecoderStep.src_eq {s t : State} (h : DecoderStep s t) : t.src = s.src := by
  cases h with
  | idle hb h => rw [h]
  | word hb hf hr wk n m hx hwf hm h => rw [h, wordDone_src, putDst_src, putFree_src, putWork_src, fetched_src]

theorem DecoderStep.host_eq {s t : State} (h : DecoderStep s t) : t.host = s.host := by
  cases h with
  | idle hb h => rw [h]
  | word hb hf hr wk n m hx hwf hm h => rw [h, wordDone_host, putDst_host, putFree_host, putWork_host, fetched_host]

/-- The decoder's turn shows in no register but `STATUS`, interference or not. -/
theorem DecoderStep.hostRead_eq {s t : State} (h : DecoderStep s t) {r : HostReg} (hr : r ≠ .status) :
    hostRead t r = hostRead s r := by
  cases h with
  | idle hb h => rw [h]
  | word hb hf _ wk n m hx hwf hm h =>
    rw [h, wordDone_hostRead _ hr, hostRead_congr (fetched_put_sameConfig s wk n m) hr]

/-- Without interference the decoder's turn changes no configuration register. -/
theorem DecoderStep.sameConfig_of_not_interfered {s t : State} (h : DecoderStep s t) (hi : s.interfered = false) :
    sameConfig s t := by
  cases h with
  | idle hb h => exact h ▸ ⟨rfl, rfl, rfl, rfl, rfl, rfl, rfl, rfl, rfl⟩
  | word hb hf hr wk n m hx hwf hm h =>
    exact h ▸ sameConfig_trans (fetched_put_sameConfig s wk n m) (wordDone_sameConfig hi)

/-- With nothing but `run` pending, a step is the decoder's turn. -/
theorem decoderStep_of_quiet {s t : State} (hq : s.hostQuiet) (h : step s = .next t) : DecoderStep (popHost s) t :=
  decoderStep_of_next ((step_quiet hq).symm.trans h)

/-- Settles O31: taking an event off the queue leaves all but the queue, and the decoder's turn does the rest. -/
theorem decoderNeverWritesSource : Obligations.DecoderNeverWritesSource := by
  intro s t hq h
  have hd : DecoderStep (popHost s) t := decoderStep_of_quiet hq h
  have hpop : sameConfig s (popHost s) := popHost_sameConfig s
  exact ⟨hd.src_eq, (Move.decoder hd).cfg_eq, hd.host_eq,
    fun r hr => (hd.hostRead_eq hr).trans (hostRead_congr hpop hr),
    fun hi => sameConfig_trans hpop (hd.sameConfig_of_not_interfered hi)⟩

end Sys2Proof.Machine

/-! The words and their instructions (30_encoding): what the mode dispatcher selects, that an encoded word has the fields it
was made of, and that every word is the encoding of its fields. -/

namespace Sys2Proof
open Machine

/-! ### Fields of fields, and fields of one bit -/

/-- A field of a field is a field of the word. -/
theorem extractLsb'_extractLsb' {w : Nat} (x : BitVec w) {start len start' len' : Nat} (h : start' + len' ≤ len) :
    (x.extractLsb' start len).extractLsb' start' len' = x.extractLsb' (start + start') len' := by
  ext i hi
  have hlen : start' + i < len := by omega
  simp [hlen, Nat.add_assoc]

theorem extractLsb'_one_of_getLsbD {w : Nat} {x : BitVec w} {i : Nat} {b : Bool} (h : x.getLsbD i = b) :
    x.extractLsb' i 1 = BitVec.ofBool b := by
  ext j hj
  obtain rfl : j = 0 := by omega
  simp [h]

/-! ### The mode dispatcher (30_encoding R89, R90) -/

/-- The dispatcher by its two tests: bit 1, then the blue sum. -/
theorem dispatchMode_eq (l : ColorLayout) (n : CodedWord) :
    dispatchMode l n = if n.getLsbD 1 then
      (if blueSum l n < 0 ∨ 31 < blueSum l n then .planar else .differential) else .individual := by
  rw [dispatchMode, extractLsb'_one_of_getLsbD rfl]
  cases n.getLsbD 1 <;> rfl

theorem dispatchMode_individual_iff (l : ColorLayout) (n : CodedWord) :
    dispatchMode l n = .individual ↔ n.getLsbD 1 = false := by
  rw [dispatchMode_eq]
  by_cases hsum : blueSum l n < 0 ∨ 31 < blueSum l n <;> cases n.getLsbD 1 <;> simp [hsum]

theorem dispatchMode_planar_iff (l : ColorLayout) (n : CodedWord) :
    dispatchMode l n = .planar ↔ n.getLsbD 1 = true ∧ (blueSum l n < 0 ∨ 31 < blueSum l n) := by
  rw [dispatchMode_eq]
  by_cases hsum : blueSum l n < 0 ∨ 31 < blueSum l n <;> cases n.getLsbD 1 <;> simp [hsum]

theorem dispatchMode_differential_iff (l : ColorLayout) (n : CodedWord) :
    dispatchMode l n = .differential ↔ n.getLsbD 1 = true ∧ 0 ≤ blueSum l n ∧ blueSum l n ≤ 31 := by
  have hinside : (0 ≤ blueSum l n ∧ blueSum l n ≤ 31) ↔ ¬ (blueSum l n < 0 ∨ 31 < blueSum l n) := by omega
  rw [dispatchMode_eq, hinside]
  by_cases hsum : blueSum l n < 0 ∨ 31 < blueSum l n <;> cases n.getLsbD 1 <;> simp [hsum]

theorem decodeColor_of_individual {cfg : Config} {n : CodedWord} (h : dispatchMode cfg.layoutColorLo n = .individual) :
    decodeColor cfg n = .cwIndiv (indivFields cfg.layoutColorLo n) := by
  rw [decodeColor, h]

theorem decodeColor_of_planar {cfg : Config} {n : CodedWord} (h : dispatchMode cfg.layoutColorLo n = .planar) :
    decodeColor cfg n = .cwPlanar (planarFields cfg.layoutPlanar n) := by
  rw [decodeColor, h]

theorem decodeColor_of_differential {cfg : Config} {n : CodedWord}
    (h : dispatchMode cfg.layoutColorLo n = .differential) :
    decodeColor cfg n = .cwDiff (diffFields cfg.layoutColorLo n) := by
  rw [decodeColor, h]

/-- The operation a word decodes to tells its mode, since the three are different constructors. -/
theorem decodeColor_eq_iff (cfg : Config) (n : CodedWord) :
    (decodeColor cfg n = .cwIndiv (indivFields cfg.layoutColorLo n) ↔ dispatchMode cfg.layoutColorLo n = .individual) ∧
    (decodeColor cfg n = .cwPlanar (planarFields cfg.layoutPlanar n) ↔ dispatchMode cfg.layoutColorLo n = .planar) ∧
    (decodeColor cfg n = .cwDiff (diffFields cfg.layoutColorLo n) ↔ dispatchMode cfg.layoutColorLo n = .differential) := by
  cases h : dispatchMode cfg.layoutColorLo n with
  | individual => simp [decodeColor_of_individual h]
  | planar => simp [decodeColor_of_planar h]
  | differential => simp [decodeColor_of_differential h]

/-! ### The blue sum, read from a word, its fields, or its bits 15:8 -/

theorem sext3_eq_toInt (v : BitVec 3) : sext3 v = v.toInt := by
  rw [sext3, BitVec.toInt_eq_toNat_cond]
  split <;> split <;> omega

theorem diffFields_blueSum (n : CodedWord) : (diffFields specColorLayout n).blueSum = blueSum specColorLayout n := by
  rw [blueSum_spec, sext3_eq_toInt]
  rfl

/-- The pieces of `BO` with the unused bits beside them are `CB0` and `DB` (30_encoding R86). -/
theorem planarFields_blueSum (n : CodedWord) : (planarFields specPlanarLayout n).blueSum = blueSum specColorLayout n := by
  rw [blueSum_spec, sext3_eq_toInt, PlanarWord.blueSum, planarFields_spec]
  simp (disch := omega) only [BitVec.extractLsb'_append_eq_of_add_le, BitVec.extractLsb'_append_eq_of_le, Nat.reduceSub,
    extractLsb'_extractLsb', BitVec.extractLsb'_append_extractLsb'_eq_extractLsb']

/-- The sixteen values of `N[15:8]` that select planar (30_encoding R89). -/
def planarBytes : List Byte :=
  [0x04, 0x05, 0x06, 0x07, 0x0C, 0x0D, 0x0E, 0x14, 0x15, 0x1C, 0xEB, 0xF2, 0xF3, 0xF9, 0xFA, 0xFB]

theorem mem_planarBytes_iff : ∀ b : Byte, b ∈ planarBytes ↔
    (b.extractLsb' 3 5).toNat + sext3 (b.extractLsb' 0 3) < 0 ∨
      31 < (b.extractLsb' 3 5).toNat + sext3 (b.extractLsb' 0 3) := by
  decide

/-- `CB0` and `DB` are the two fields of the byte `N[15:8]`, so the blue test is a test of that byte. -/
theorem blueSum_outside_iff (n : CodedWord) :
    (blueSum specColorLayout n < 0 ∨ 31 < blueSum specColorLayout n) ↔ n.extractLsb' 8 8 ∈ planarBytes := by
  rw [mem_planarBytes_iff, extractLsb'_extractLsb' n (by omega), extractLsb'_extractLsb' n (by omega), blueSum_spec]

/-! ### The fields of an encoded word -/

theorem indivFields_encodeIndiv (f : IndivWord) : indivFields specColorLayout (encodeIndiv f) = f := by
  simp (disch := omega) only [indivFields_spec, encodeIndiv, BitVec.extractLsb'_append_eq_of_add_le,
    BitVec.extractLsb'_append_eq_of_le, Nat.reduceSub, BitVec.extractLsb'_eq_self]

theorem diffFields_encodeDiff (f : DiffWord) : diffFields specColorLayout (encodeDiff f) = f := by
  simp (disch := omega) only [diffFields_spec, encodeDiff, BitVec.extractLsb'_append_eq_of_add_le,
    BitVec.extractLsb'_append_eq_of_le, Nat.reduceSub, BitVec.extractLsb'_eq_self]

/-- The fields stored in pieces, `GO`, `BO` and `RH`, come together again (30_encoding R88). -/
theorem planarFields_encodePlanar (f : PlanarWord) : planarFields specPlanarLayout (encodePlanar f) = f := by
  simp (disch := omega) only [planarFields_spec, encodePlanar, BitVec.extractLsb'_append_eq_of_add_le,
    BitVec.extractLsb'_append_eq_of_le, Nat.reduceSub, BitVec.extractLsb'_append_extractLsb'_eq_extractLsb',
    BitVec.extractLsb'_eq_self]

theorem alphaFields_encodeAlpha (f : AlphaWord) : alphaFields specAlphaLayout (encodeAlpha f) = f := by
  simp (disch := omega) only [alphaFields_spec, encodeAlpha, BitVec.extractLsb'_append_eq_of_add_le,
    BitVec.extractLsb'_append_eq_of_le, Nat.reduceSub, BitVec.extractLsb'_eq_self]

theorem encodeIndiv_diffBit (f : IndivWord) : (encodeIndiv f).getLsbD 1 = false := by
  simp only [encodeIndiv, BitVec.getLsbD_append]
  simp

theorem encodeDiff_diffBit (f : DiffWord) : (encodeDiff f).getLsbD 1 = true := by
  simp only [encodeDiff, BitVec.getLsbD_append]
  simp

theorem encodePlanar_diffBit (f : PlanarWord) : (encodePlanar f).getLsbD 1 = true := by
  simp only [encodePlanar, BitVec.getLsbD_append]
  simp

theorem encodeDiff_blueSum (f : DiffWord) : blueSum specColorLayout (encodeDiff f) = f.blueSum := by
  rw [← diffFields_blueSum, diffFields_encodeDiff]

theorem encodePlanar_blueSum (f : PlanarWord) : blueSum specColorLayout (encodePlanar f) = f.blueSum := by
  rw [← planarFields_blueSum, planarFields_encodePlanar]

theorem decodeColor_encodeIndiv {cfg : Config} (h : specLayouts cfg) (f : IndivWord) :
    decodeColor cfg (encodeIndiv f) = .cwIndiv f := by
  obtain ⟨hcolor, -, -⟩ := h
  have hmode : dispatchMode cfg.layoutColorLo (encodeIndiv f) = .individual :=
    (dispatchMode_individual_iff _ _).2 (encodeIndiv_diffBit f)
  rw [decodeColor_of_individual hmode, hcolor, indivFields_encodeIndiv]

theorem decodeColor_encodePlanar {cfg : Config} (h : specLayouts cfg) {f : PlanarWord}
    (hf : (Instr.cwPlanar f).WellFormed) : decodeColor cfg (encodePlanar f) = .cwPlanar f := by
  obtain ⟨hcolor, hplanar, -⟩ := h
  have hmode : dispatchMode cfg.layoutColorLo (encodePlanar f) = .planar := by
    rw [dispatchMode_planar_iff, hcolor, encodePlanar_blueSum]
    exact ⟨encodePlanar_diffBit f, hf⟩
  rw [decodeColor_of_planar hmode, hplanar, planarFields_encodePlanar]

theorem decodeColor_encodeDiff {cfg : Config} (h : specLayouts cfg) {f : DiffWord}
    (hf : (Instr.cwDiff f).WellFormed) : decodeColor cfg (encodeDiff f) = .cwDiff f := by
  obtain ⟨hcolor, -, -⟩ := h
  have hmode : dispatchMode cfg.layoutColorLo (encodeDiff f) = .differential := by
    rw [dispatchMode_differential_iff, hcolor, encodeDiff_blueSum]
    exact ⟨encodeDiff_diffBit f, hf⟩
  rw [decodeColor_of_differential hmode, hcolor, diffFields_encodeDiff]

theorem decodeAlpha_encodeAlpha {cfg : Config} (h : specLayouts cfg) (f : AlphaWord) :
    decodeAlpha cfg (encodeAlpha f) = .awAlpha f := by
  obtain ⟨-, -, halpha⟩ := h
  rw [decodeAlpha, halpha, alphaFields_encodeAlpha]

/-! ### Every word is the encoding of its fields -/

theorem encodeIndiv_indivFields {n : CodedWord} (h : n.getLsbD 1 = false) :
    encodeIndiv (indivFields specColorLayout n) = n := by
  have hbit : n.extractLsb' 1 1 = 0#1 := extractLsb'_one_of_getLsbD h
  rw [encodeIndiv, indivFields_spec, ← hbit]
  simp (disch := omega) only [BitVec.extractLsb'_append_extractLsb'_eq_extractLsb', BitVec.extractLsb'_eq_self]

theorem encodeDiff_diffFields {n : CodedWord} (h : n.getLsbD 1 = true) :
    encodeDiff (diffFields specColorLayout n) = n := by
  have hbit : n.extractLsb' 1 1 = 1#1 := extractLsb'_one_of_getLsbD h
  rw [encodeDiff, diffFields_spec, ← hbit]
  simp (disch := omega) only [BitVec.extractLsb'_append_extractLsb'_eq_extractLsb', BitVec.extractLsb'_eq_self]

/-- The six unused bits are among the fields, so none is lost (30_encoding R91). -/
theorem encodePlanar_planarFields {n : CodedWord} (h : n.getLsbD 1 = true) :
    encodePlanar (planarFields specPlanarLayout n) = n := by
  have hbit : n.extractLsb' 1 1 = 1#1 := extractLsb'_one_of_getLsbD h
  rw [encodePlanar, planarFields_spec, ← hbit]
  simp (disch := omega) only [BitVec.extractLsb'_append_eq_of_add_le, BitVec.extractLsb'_append_eq_of_le, Nat.reduceSub,
    BitVec.extractLsb'_append_extractLsb'_eq_extractLsb', BitVec.extractLsb'_eq_self]

theorem encodeAlpha_alphaFields (a : CodedWord) : encodeAlpha (alphaFields specAlphaLayout a) = a := by
  rw [encodeAlpha, alphaFields_spec]
  simp (disch := omega) only [BitVec.extractLsb'_append_extractLsb'_eq_extractLsb', BitVec.extractLsb'_eq_self]

/-- What the dispatcher tested of the word is what well-formedness asks of the fields. -/
theorem decodeColor_wellFormed {cfg : Config} (h : specLayouts cfg) (n : CodedWord) : (decodeColor cfg n).WellFormed := by
  obtain ⟨hcolor, hplanar, -⟩ := h
  cases hmode : dispatchMode cfg.layoutColorLo n with
  | individual =>
    rw [decodeColor_of_individual hmode]
    trivial
  | planar =>
    obtain ⟨-, hsum⟩ := (dispatchMode_planar_iff _ n).1 hmode
    rw [decodeColor_of_planar hmode, hplanar]
    rwa [hcolor, ← planarFields_blueSum] at hsum
  | differential =>
    obtain ⟨-, hsum⟩ := (dispatchMode_differential_iff _ n).1 hmode
    rw [decodeColor_of_differential hmode, hcolor]
    rwa [hcolor, ← diffFields_blueSum] at hsum

theorem decodeColor_kind (cfg : Config) (n : CodedWord) : (decodeColor cfg n).kind = .color := by
  cases hmode : dispatchMode cfg.layoutColorLo n with
  | individual => rw [decodeColor_of_individual hmode, Instr.kind]
  | planar => rw [decodeColor_of_planar hmode, Instr.kind]
  | differential => rw [decodeColor_of_differential hmode, Instr.kind]

theorem encode_decodeColor {cfg : Config} (h : specLayouts cfg) (n : CodedWord) :
    encode (decodeColor cfg n) = storeWord (normC n) := by
  obtain ⟨hcolor, hplanar, -⟩ := h
  cases hmode : dispatchMode cfg.layoutColorLo n with
  | individual =>
    have hbit : n.getLsbD 1 = false := (dispatchMode_individual_iff _ n).1 hmode
    rw [decodeColor_of_individual hmode, encode, hcolor, encodeIndiv_indivFields hbit]
  | planar =>
    obtain ⟨hbit, -⟩ := (dispatchMode_planar_iff _ n).1 hmode
    rw [decodeColor_of_planar hmode, encode, hplanar, encodePlanar_planarFields hbit]
  | differential =>
    obtain ⟨hbit, -⟩ := (dispatchMode_differential_iff _ n).1 hmode
    rw [decodeColor_of_differential hmode, encode, hcolor, encodeDiff_diffFields hbit]

theorem encode_decodeAlpha {cfg : Config} (h : specLayouts cfg) (a : CodedWord) :
    encode (decodeAlpha cfg a) = storeWord (normA a) := by
  obtain ⟨-, -, halpha⟩ := h
  rw [decodeAlpha, encode, halpha, encodeAlpha_alphaFields]

/-! ### The statements -/

/-- Settles O1: the stored bytes decode as the normalized word does, and the encoded word has its instruction's mode and
fields; the command's four bytes are evaluated. -/
theorem decodeEncodeRoundTrip : Obligations.DecodeEncodeRoundTrip := by
  intro cfg i rest h hi
  cases i with
  | cwIndiv f => rw [Instr.kind, encode, decodeBytes_color, decodeColor_encodeIndiv h]
  | cwPlanar f => rw [Instr.kind, encode, decodeBytes_color, decodeColor_encodePlanar h hi]
  | cwDiff f => rw [Instr.kind, encode, decodeBytes_color, decodeColor_encodeDiff h hi]
  | awAlpha f => rw [Instr.kind, encode, decodeBytes_alpha, decodeAlpha_encodeAlpha h]
  | decode => rfl

/-- Settles O2: well-formedness, kind and encoding of a decoded colour word, by its mode; an alpha word is one
constructor. -/
theorem everyWordIsOneInstruction : Obligations.EveryWordIsOneInstruction := fun cfg n h =>
  ⟨⟨decodeColor_wellFormed h n, decodeColor_kind cfg n, encode_decodeColor h n⟩, trivial, rfl, encode_decodeAlpha h n⟩

/-- Settles O4: the dispatcher's two tests, with the blue sum read from `N[15:8]`. -/
theorem planarSelectedBySixteenPatterns : Obligations.PlanarSelectedBySixteenPatterns := by
  intro cfg n hcolor
  refine ⟨dispatchMode_individual_iff _ n, ?_, decodeColor_eq_iff cfg n⟩
  rw [dispatchMode_planar_iff, hcolor, blueSum_outside_iff]
  rfl

/-- Settles O3: the decoder evaluated on each of the five byte lists. -/
theorem exampleWordsDecode : Obligations.ExampleWordsDecode :=
  ⟨by decide, by decide, by decide, by decide, rfl⟩

end Sys2Proof

/-! The fetch of a coded word (40_normalize): that the eight stored bytes and their position give the raw word, its
instruction and its working values, and that the step runs them. -/

namespace Sys2Proof.Machine

/-! ### The fetched word, from its bytes -/

/-- The byte of SRC at an offset in the next word. -/
def fetchByte (s : State) (k : Nat) : Byte := Memory.load .src s.src (fetchAddr s + k)

/-- What the next word is read as: its position decides (30_encoding R81). -/
def fetchKind (s : State) : WordKind :=
  match s.phase with
  | .color => .color
  | .alpha => .alpha

/-- The working values with a fetched raw word and its normalized word recorded, as the position says. -/
def recordWord (s : State) (w : CodedWord) : Work :=
  match s.phase with
  | .color => { s.work with w := w, n := normC w }
  | .alpha => { s.work with w := w, a := normA w }

theorem fetchWord_of_not_interfered {s : State} (h : s.interfered = false) :
    fetchWord s = loadWord (fetchByte s 0) (fetchByte s 1) (fetchByte s 2) (fetchByte s 3) (fetchByte s 4) (fetchByte s 5)
      (fetchByte s 6) (fetchByte s 7) := by
  rw [fetchWord, h]
  rfl

theorem fetchWork_of_fetchWord {s : State} {w : CodedWord} (h : fetchWord s = w) : fetchWork s = recordWord s w :=
  h ▸ rfl

/-- With no interference the fetch changes the working values only. -/
theorem fetched_of_not_interfered {s : State} (h : s.interfered = false) : fetched s = putWork (fetchWork s) s := by
  rw [fetched, h]
  rfl

/-- The stored bytes, read by their position, are the fetched instruction (40_normalize R110 to R112). -/
theorem decodeBytes_fetchByte {s : State} (h : s.interfered = false) :
    decodeBytes s.cfg (fetchKind s) [fetchByte s 0, fetchByte s 1, fetchByte s 2, fetchByte s 3, fetchByte s 4,
      fetchByte s 5, fetchByte s 6, fetchByte s 7] = .ok (fetchInstr s, []) := by
  unfold fetchKind fetchInstr
  rw [fetchWord_of_not_interfered h]
  cases s.phase with
  | color => rfl
  | alpha => rfl

/-! ### The step of a busy decoder -/

/-- A busy decoder whose word exists executes it. -/
theorem step_of_fetchInRange {s : State} (hh : s.host = []) (hb : s.status.busy = true) (hr : fetchInRange s) :
    step s = afterOutcome (fetchInstr s) (exec (fetchInstr s) (fetched s)) := by
  rw [step_of_host_nil hh, decoderPlan, if_pos hb, if_pos hr, runPlan]

/-- A busy decoder whose word does not exist stops (60 R244). -/
theorem step_of_not_fetchInRange {s : State} (hh : s.host = []) (hb : s.status.busy = true) (hr : ¬ fetchInRange s) :
    step s = .fault .srcOutOfRange := by
  rw [step_of_host_nil hh, decoderPlan, if_pos hb, if_neg hr, runPlan]

/-- Settles O24: the decoded bytes are the fetched instruction, the recorded words are the fetch's working values, and
a word operation is followed by `wordDone`. -/
theorem stepRunsFetchedWord : Obligations.StepRunsFetchedWord := by
  intro s hh hb a byte w kind wk
  refine ⟨fun i hi hr hdec => ?_, step_of_not_fetchInRange hh hb⟩
  have hinstr : fetchInstr s = i := by
    have hok : Except.ok (fetchInstr s, []) = Except.ok (i, []) := (decodeBytes_fetchByte hi).symm.trans hdec
    cases hok
    rfl
  have hfetched : fetched s = putWork wk s := by
    have hwork : fetchWork s = wk := fetchWork_of_fetchWord (fetchWord_of_not_interfered hi)
    rw [fetched_of_not_interfered hi, hwork]
  have hkind : i.kind ≠ .command := hinstr ▸ fetchInstr_kind s
  rw [step_of_fetchInRange hh hb hr, hinstr, hfetched]
  cases exec i (putWork wk s) with
  | next t => exact congrArg _ (afterInstr_word i t hkind)
  | fault r => rfl
  | refused r => rfl

end Sys2Proof.Machine

/-! The base colours of a colour word (41_color_endpoints): the expanders as arithmetic, the pixel index of an ordinal, the
working values each word operation leaves, and the pixels that `CW.INDIV` and `CW.DIFF` give their tile. -/

namespace Sys2Proof.Machine

/-! ### The expanders (41_color_endpoints R124 to R127) -/

theorem exp4_toNat : ∀ v : BitVec 4, (exp4 v).toNat = 17 * v.toNat := by decide

theorem exp5_toNat : ∀ v : BitVec 5, (exp5 v).toNat = 8 * v.toNat + v.toNat / 4 := by decide

theorem exp6_toNat : ∀ v : BitVec 6, (exp6 v).toNat = 4 * v.toNat + v.toNat / 16 := by decide

theorem exp7_toNat : ∀ v : BitVec 7, (exp7 v).toNat = 2 * v.toNat + v.toNat / 64 := by decide

/-- Settles O6: each expander evaluated on every value of its field. -/
theorem expandersAsArithmetic : Obligations.ExpandersAsArithmetic := ⟨exp4_toNat, exp5_toNat, exp6_toNat, exp7_toNat⟩

/-! ### The pixel index (42_color_pixels R141) -/

/-- The interleave of the low `n` bits of a half, bit by bit. -/
theorem foldl_spread_getLsbD (h : BitVec 16) (n i : Nat) (hi : i < 32) :
    ((List.range n).foldl (fun acc k => acc ||| ((h.extractLsb' k 1).setWidth 32 <<< (2 * k))) 0).getLsbD i =
      (decide (i % 2 = 0 ∧ i / 2 < n) && h.getLsbD (i / 2)) := by
  induction n with
  | zero => simp
  | succ n ih =>
    rw [List.range_succ, List.foldl_append, List.foldl_cons, List.foldl_nil, BitVec.getLsbD_or, ih]
    by_cases hn : i = 2 * n
    · subst hn
      simp [hi]
    · have hbit : (((h.extractLsb' n 1).setWidth 32) <<< (2 * n)).getLsbD i = false := by
        simp
        omega
      have hrange : (i % 2 = 0 ∧ i / 2 < n) ↔ (i % 2 = 0 ∧ i / 2 < n + 1) := by omega
      rw [hbit, Bool.or_false, decide_eq_decide.2 hrange]

theorem spread16_getLsbD (h : BitVec 16) {i : Nat} (hi : i < 32) :
    (spread16 h).getLsbD i = (decide (i % 2 = 0) && h.getLsbD (i / 2)) := by
  have hrange : (i % 2 = 0 ∧ i / 2 < 16) ↔ i % 2 = 0 := by omega
  rw [spread16, foldl_spread_getLsbD h 16 i hi, decide_eq_decide.2 hrange]

/-- Two spread halves, one moved up a bit, hold each pixel's two index bits side by side. -/
theorem pixelIndex_interleave (low high : BitVec 16) {k : Nat} (hk : k < 16) :
    pixelIndex (spread16 low ||| (spread16 high <<< 1)) k = high.extractLsb' k 1 ++ low.extractLsb' k 1 := by
  apply BitVec.eq_of_getLsbD_eq
  intro i hi
  simp only [pixelIndex, BitVec.getLsbD_extractLsb', BitVec.getLsbD_or, BitVec.getLsbD_shiftLeft,
    BitVec.getLsbD_append]
  rw [spread16_getLsbD low (by omega), spread16_getLsbD high (by omega)]
  obtain rfl | rfl : i = 0 ∨ i = 1 := by omega
  · -- Bit `2k` is a bit of the low half; the other has an odd place there, `2k - 1`, which holds no bit.
    simp
    omega
  · -- Bit `2k + 1` is odd in the low half, and bit `2k` of the high half before the move.
    simp
    omega

/-- The pixel index of ordinal `k`, its high bit from the half `INDEX_MSB_HALF` names. -/
theorem pixelIndex_indexField (half : IndexMsbHalf) (il ih : BitVec 16) {k : Nat} (hk : k < 16) :
    pixelIndex (indexField half il ih) k =
      if half = .upper then ih.extractLsb' k 1 ++ il.extractLsb' k 1 else il.extractLsb' k 1 ++ ih.extractLsb' k 1 := by
  cases half with
  | upper => exact pixelIndex_interleave il ih hk
  | lower => exact pixelIndex_interleave ih il hk

/-! ### The working values a word operation leaves -/

theorem exec_cwIndiv_work {f : IndivWord} {s t : State} (h : exec (.cwIndiv f) s = .next t) :
    t.work = indivWork s.cfg f s.work ∧ t.freeNext = s.freeNext := by
  obtain ⟨-, rfl⟩ := (storeTile_next_iff _ _ _).1 h
  exact ⟨rfl, rfl⟩

theorem exec_cwDiff_work {f : DiffWord} {s t : State} (h : exec (.cwDiff f) s = .next t) :
    t.work = diffWork s.cfg s.freeNext f s.work ∧ t.freeNext = s.freeNext + diffDrawn f := by
  obtain ⟨-, rfl⟩ := (storeTile_next_iff _ _ _).1 h
  exact ⟨rfl, rfl⟩

theorem exec_cwPlanar_work {f : PlanarWord} {s t : State} (h : exec (.cwPlanar f) s = .next t) :
    t.work = planarWork f s.work := by
  obtain ⟨-, rfl⟩ := (storeTile_next_iff _ _ _).1 h
  rfl

theorem exec_awAlpha_work {f : AlphaWord} {s t : State} (h : exec (.awAlpha f) s = .next t) :
    t.work = alphaWork f s.work := by
  obtain ⟨-, rfl⟩ := (storeTile_next_iff _ _ _).1 h
  rfl

/-! ### The second base colour of a differential word (41_color_endpoints R129, R130) -/

theorem outside5_eq_false {v : Int} (h : 0 ≤ v ∧ v ≤ 31) : outside5 v = false := by
  simp only [outside5, decide_eq_false_iff_not]
  omega

/-- In range, `C1[c]` is the value of its five bits, and `BASE[1][c]` their expansion. -/
theorem diffExpand_of_inRange (p : RgOverflowPolicy) (draw : Nat) {v : Int} (h : 0 ≤ v ∧ v ≤ 31) :
    diffExpand p draw v = exp5 (BitVec.ofInt 5 v) := by
  obtain ⟨n, rfl⟩ := Int.eq_ofNat_of_zero_le h.1
  rw [diffExpand, outside5_eq_false h, BitVec.ofInt_natCast]
  rfl

/-- `EXP5` of an in-range `C1[c]` (R125), as arithmetic on the signed sum. -/
theorem exp5_ofInt_toNat {v : Int} (h : 0 ≤ v ∧ v ≤ 31) : ((exp5 (BitVec.ofInt 5 v)).toNat : Int) = 8 * v + v / 4 := by
  obtain ⟨n, rfl⟩ := Int.eq_ofNat_of_zero_le h.1
  rw [BitVec.ofInt_natCast, exp5_toNat, BitVec.toNat_ofNat]
  omega

theorem diffDelta_eq (f : DiffWord) : diffDelta f = ⟨f.d.r.toInt, f.d.g.toInt, f.d.b.toInt⟩ := by
  simp only [diffDelta, Rgb.map, sext3_eq_toInt]

theorem diffBase1_eq (f : DiffWord) :
    diffBase1 f = ⟨f.c0.r.toNat + f.d.r.toInt, f.c0.g.toNat + f.d.g.toInt, f.c0.b.toNat + f.d.b.toInt⟩ := by
  simp only [diffBase1, diffDelta_eq, Rgb.zip]

/-- No free value is drawn for a word whose three channels are in range (log 6). -/
theorem diffDrawn_of_inRange {f : DiffWord} (hr : 0 ≤ (diffBase1 f).r ∧ (diffBase1 f).r ≤ 31)
    (hg : 0 ≤ (diffBase1 f).g ∧ (diffBase1 f).g ≤ 31) (hb : 0 ≤ (diffBase1 f).b ∧ (diffBase1 f).b ≤ 31) :
    diffDrawn f = 0 := by
  simp [diffDrawn, diffOpen, Rgb.map, outside5_eq_false hr, outside5_eq_false hg, outside5_eq_false hb]

/-- Settles O10: the working values and the draw counter of `exec_cwDiff_work`, with the delta as a signed number. -/
theorem cwDiffWorkingValues : Obligations.CwDiffWorkingValues := by
  intro f s t h
  obtain ⟨hwork, hfree⟩ := exec_cwDiff_work h
  have hc1 : t.work.c1 = diffBase1 f := by rw [hwork]; rfl
  rw [hc1, hfree]
  refine ⟨⟨indexField s.cfg.indexMsbHalf f.il f.ih, (diffWork s.cfg s.freeNext f s.work).base1, ?_,
    diffExpand_of_inRange _ _, diffExpand_of_inRange _ _, diffExpand_of_inRange _ _⟩, Nat.le_add_right _ _,
    fun hr hg hb => by rw [diffDrawn_of_inRange hr hg hb, Nat.add_zero]⟩
  rw [hwork, ← diffDelta_eq, ← diffBase1_eq]
  rfl

/-! ### The pixels of a tile (42_color_pixels R142 to R145) -/

theorem colorChannel_closed (p : RgOverflowPolicy) (draw : Nat) (base : Byte) (m : Int) :
    colorChannel p false draw base m = clamp8 ((base.toNat : Int) + m) := rfl

theorem colorPixel_noneOpen (cfg : Config) (wk : Work) (draw k : Nat) :
    colorPixel cfg wk noneOpen draw k =
      pack cfg.pixelLayout (clamp8 ((ordinalBase cfg wk k).r.toNat + ordinalMod cfg wk k))
        (clamp8 ((ordinalBase cfg wk k).g.toNat + ordinalMod cfg wk k))
        (clamp8 ((ordinalBase cfg wk k).b.toNat + ordinalMod cfg wk k)) 255 := rfl

theorem ordinalBase_indivWork (cfg : Config) (f : IndivWord) (wk : Work) (k : Nat) :
    ordinalBase cfg (indivWork cfg f wk) k =
      (if subBlock f.flip (colOf cfg.pixelOrder k) (rowOf cfg.pixelOrder k) = 0 then f.c0 else f.c1).map exp4 :=
  (apply_ite (Rgb.map exp4) _ _ _).symm

/-- The modifier of ordinal `k`, its index read off the two halves of the word's index field. -/
theorem ordinalMod_of_idx {cfg : Config} {wk : Work} {il ih : BitVec 16} (hidx : wk.idx = indexField cfg.indexMsbHalf il ih)
    {k : Nat} (hk : k < 16) :
    ordinalMod cfg wk k =
      colorMod cfg (if subBlock wk.flip (colOf cfg.pixelOrder k) (rowOf cfg.pixelOrder k) = 0 then wk.tcw0 else wk.tcw1)
        (if cfg.indexMsbHalf = .upper then ih.extractLsb' k 1 ++ il.extractLsb' k 1
          else il.extractLsb' k 1 ++ ih.extractLsb' k 1) := by
  rw [ordinalMod, hidx, pixelIndex_indexField _ _ _ hk]
  rfl

theorem exec_cwIndiv_pixel {f : IndivWord} {s t : State} (h : exec (.cwIndiv f) s = .next t) (hw : 4 ≤ s.width.toNat)
    {k : Nat} (hk : k < 16) :
    readPixel t.dst (tilePixel s (colOf s.cfg.pixelOrder k) (rowOf s.cfg.pixelOrder k)) =
      colorPixel s.cfg (indivWork s.cfg f s.work) noneOpen s.freeNext k := by
  obtain ⟨-, rfl⟩ := (storeTile_next_iff _ _ _).1 h
  rw [putDst_dst, putWork_dst, cwIndiv_pixel f s hw hk]

theorem exec_cwDiff_pixel {f : DiffWord} {s t : State} (h : exec (.cwDiff f) s = .next t) (hw : 4 ≤ s.width.toNat)
    {k : Nat} (hk : k < 16) :
    readPixel t.dst (tilePixel s (colOf s.cfg.pixelOrder k) (rowOf s.cfg.pixelOrder k)) =
      colorPixel s.cfg (diffWork s.cfg s.freeNext f s.work) (diffOpen f) s.freeNext k := by
  obtain ⟨-, rfl⟩ := (storeTile_next_iff _ _ _).1 h
  rw [putDst_dst, putFree_dst, putWork_dst, cwDiff_pixel f s hw hk]

/-- Settles O8: the frame and the pixels of `CW.INDIV`, the base of a sub-block being `EXP4` of its field. -/
theorem cwIndivCompletes : Obligations.CwIndivCompletes := by
  intro f s hr
  obtain ⟨t, h⟩ : ∃ t, exec (.cwIndiv f) s = .next t := ⟨_, exec_cwIndiv_next f s hr⟩
  obtain ⟨hwork, hfree⟩ := exec_cwIndiv_work h
  obtain ⟨hframe, -⟩ := wordOperationFrame (.cwIndiv f) s t (by simp [Instr.kind]) h
  refine ⟨t, h, hframe, hfree, ⟨_, hwork⟩, fun hw k hk => (exec_cwIndiv_pixel h hw hk).trans ?_⟩
  rw [colorPixel_noneOpen, ordinalBase_indivWork, ordinalMod_of_idx rfl hk]
  simp only [Rgb.map, exp4_toNat, Nat.cast_mul, Nat.cast_ofNat]
  rfl

/-! ### `CW.DIFF`, byte by byte -/

/-- What the rules say of one colour byte of a differential word: the clamped sum of base and modifier in sub-block 0, and
in sub-block 1 where base-1 is in range (41 R129, R130; 42 R144). -/
def SpecifiedDiffByte (sub : Nat) (m : Int) (byte : Byte) (c : BitVec 5) (d : BitVec 3) : Prop :=
  (sub = 0 → byte = clamp8 (8 * c.toNat + c.toNat / 4 + m)) ∧
  (sub ≠ 0 → 0 ≤ (c.toNat : Int) + d.toInt → (c.toNat : Int) + d.toInt ≤ 31 →
    byte = clamp8 (8 * ((c.toNat : Int) + d.toInt) + ((c.toNat : Int) + d.toInt) / 4 + m))

/-- An output channel whose base is `EXP5(C0)` in sub-block 0 and `BASE[1]` in sub-block 1 is as specified. -/
theorem specifiedDiffByte_colorChannel (p : RgOverflowPolicy) (draw draw' sub : Nat) (m : Int) (c : BitVec 5)
    (d : BitVec 3) {c1 : Int} (hc1 : c1 = c.toNat + d.toInt) :
    SpecifiedDiffByte sub m (colorChannel p (outside5 c1 && decide (sub ≠ 0)) draw
      (if sub = 0 then exp5 c else diffExpand p draw' c1) m) c d := by
  subst hc1
  constructor
  · intro hsub
    have hclosed (b : Bool) : (b && decide (sub ≠ 0)) = false := by simp [hsub]
    rw [hclosed, if_pos hsub, colorChannel_closed, exp5_toNat]
    rfl
  · intro hsub hlow hhigh
    rw [outside5_eq_false ⟨hlow, hhigh⟩, Bool.false_and, if_neg hsub, colorChannel_closed,
      diffExpand_of_inRange p draw' ⟨hlow, hhigh⟩, exp5_ofInt_toNat ⟨hlow, hhigh⟩]

/-- The bytes of a differential word's pixel: three channels as specified, and alpha 255. -/
theorem colorPixel_diffWork (cfg : Config) (f : DiffWord) (wk : Work) (draw k : Nat) {sub : Nat} {m : Int} {v : Pixel}
    (hsub : ordinalSub cfg (diffWork cfg draw f wk) k = sub) (hm : ordinalMod cfg (diffWork cfg draw f wk) k = m)
    (hv : v = colorPixel cfg (diffWork cfg draw f wk) (diffOpen f) draw k) :
    SpecifiedDiffByte sub m (v.extractLsb' 0 8) f.c0.r f.d.r ∧ SpecifiedDiffByte sub m (v.extractLsb' 8 8) f.c0.g f.d.g ∧
      SpecifiedDiffByte sub m (v.extractLsb' 16 8) f.c0.b f.d.b ∧ v.extractLsb' 24 8 = 255 := by
  have hc1 := diffBase1_eq f
  rw [hv, colorPixel, pack_red, pack_green, pack_blue, pack_alpha, ordinalBase, hsub, hm, apply_ite Rgb.r, apply_ite Rgb.g,
    apply_ite Rgb.b]
  exact ⟨specifiedDiffByte_colorChannel _ _ _ _ _ _ _ (congrArg Rgb.r hc1),
    specifiedDiffByte_colorChannel _ _ _ _ _ _ _ (congrArg Rgb.g hc1),
    specifiedDiffByte_colorChannel _ _ _ _ _ _ _ (congrArg Rgb.b hc1), rfl⟩

/-- Settles O9: the frame of `CW.DIFF`, and each byte of a pixel by its channel. -/
theorem cwDiffCompletes : Obligations.CwDiffCompletes := by
  intro f s hr
  obtain ⟨t, h⟩ : ∃ t, exec (.cwDiff f) s = .next t := ⟨_, exec_cwDiff_next f s hr⟩
  obtain ⟨hframe, -⟩ := wordOperationFrame (.cwDiff f) s t (by simp [Instr.kind]) h
  exact ⟨t, h, hframe, fun hw k hk =>
    colorPixel_diffWork s.cfg f s.work s.freeNext k rfl (ordinalMod_of_idx rfl hk) (exec_cwDiff_pixel h hw hk)⟩

/-! ### The working values, from the bits of the word (log 16) -/

theorem decodeColor_individual_work {n : CodedWord} {s t : State} (hl : specLayouts s.cfg)
    (hmode : dispatchMode s.cfg.layoutColorLo n = .individual) (h : exec (decodeColor s.cfg n) s = .next t) :
    t.work = indivWork s.cfg (indivFields specColorLayout n) s.work := by
  obtain ⟨hcolor, -, -⟩ := hl
  rw [decodeColor_of_individual hmode, hcolor] at h
  obtain ⟨hwork, -⟩ := exec_cwIndiv_work h
  exact hwork

theorem decodeColor_differential_work {n : CodedWord} {s t : State} (hl : specLayouts s.cfg)
    (hmode : dispatchMode s.cfg.layoutColorLo n = .differential) (h : exec (decodeColor s.cfg n) s = .next t) :
    t.work = diffWork s.cfg s.freeNext (diffFields specColorLayout n) s.work := by
  obtain ⟨hcolor, -, -⟩ := hl
  rw [decodeColor_of_differential hmode, hcolor] at h
  obtain ⟨hwork, -⟩ := exec_cwDiff_work h
  exact hwork

theorem decodeColor_planar_work {n : CodedWord} {s t : State} (hl : specLayouts s.cfg)
    (hmode : dispatchMode s.cfg.layoutColorLo n = .planar) (h : exec (decodeColor s.cfg n) s = .next t) :
    t.work = planarWork (planarFields specPlanarLayout n) s.work := by
  obtain ⟨-, hplanar, -⟩ := hl
  rw [decodeColor_of_planar hmode, hplanar] at h
  exact exec_cwPlanar_work h

theorem decodeAlpha_work {n : CodedWord} {s t : State} (hl : specLayouts s.cfg)
    (h : exec (decodeAlpha s.cfg n) s = .next t) :
    t.work = alphaWork (alphaFields specAlphaLayout n) s.work := by
  obtain ⟨-, -, halpha⟩ := hl
  rw [decodeAlpha, halpha] at h
  exact exec_awAlpha_work h

/-- Blue of base-1 is in range in every word the dispatcher takes for differential (41 R121). -/
theorem diffBase1_blue_inRange {cfg : Config} {n : CodedWord} (hl : specLayouts cfg)
    (hmode : dispatchMode cfg.layoutColorLo n = .differential) :
    0 ≤ (diffBase1 (diffFields specColorLayout n)).b ∧ (diffBase1 (diffFields specColorLayout n)).b ≤ 31 := by
  obtain ⟨hcolor, -, -⟩ := hl
  obtain ⟨-, hsum⟩ := (dispatchMode_differential_iff _ n).1 (hcolor ▸ hmode)
  exact hsum

/-- Settles O11: the working values of the word's mode, whose fields are the word's bits. -/
theorem workingValuesFromWord : Obligations.WorkingValuesFromWord := by
  intro n s t hl
  refine ⟨fun h => ?_, fun h => ?_⟩
  · cases hmode : dispatchMode s.cfg.layoutColorLo n with
    | individual =>
      have hbit : n.getLsbD 1 = false := (dispatchMode_individual_iff _ n).1 hmode
      rw [decodeColor_individual_work hl hmode h, extractLsb'_one_of_getLsbD hbit]
      exact ⟨rfl, rfl, rfl, fun _ => ⟨rfl, rfl, rfl, rfl⟩, nofun, fun _ => ⟨rfl, rfl, rfl⟩, nofun⟩
    | differential =>
      obtain ⟨hbit, -⟩ := (dispatchMode_differential_iff _ n).1 hmode
      have hblue := diffBase1_blue_inRange hl hmode
      rw [decodeColor_differential_work hl hmode h, extractLsb'_one_of_getLsbD hbit]
      exact ⟨rfl, rfl, rfl, nofun, fun _ => ⟨rfl, diffDelta_eq _, rfl, rfl, diffExpand_of_inRange _ _,
        diffExpand_of_inRange _ _, hblue, diffExpand_of_inRange _ _ hblue⟩, fun _ => ⟨rfl, rfl, rfl⟩, nofun⟩
    | planar =>
      obtain ⟨hbit, -⟩ := (dispatchMode_planar_iff _ n).1 hmode
      have hflip : (planarFields specPlanarLayout n).h.r.extractLsb' 0 1 = n.extractLsb' 0 1 :=
        BitVec.extractLsb'_append_eq_right
      rw [decodeColor_planar_work hl hmode h, extractLsb'_one_of_getLsbD hbit]
      exact ⟨hflip, rfl, rfl, nofun, nofun, nofun, fun _ => ⟨rfl, rfl, rfl, rfl, rfl, rfl⟩⟩
  · rw [decodeAlpha_work hl h]
    exact ⟨rfl, rfl, rfl⟩

end Sys2Proof.Machine

/-! The pixels of a colour word (42_color_pixels): where SPREAD16 and IDX put each bit of the index halves, and that no
colour operation depends on what DST held. -/

namespace Sys2Proof.Machine

/-! ### The index interleave, bit by bit (42_color_pixels R141) -/

theorem spread16_getLsbD_even (h : BitVec 16) {k : Nat} (hk : k < 16) :
    (spread16 h).getLsbD (2 * k) = h.getLsbD k := by
  rw [spread16_getLsbD h (by omega), Nat.mul_mod_right, Nat.mul_div_cancel_left k two_pos]
  rfl

theorem spread16_getLsbD_odd (h : BitVec 16) {k : Nat} (hk : k < 16) :
    (spread16 h).getLsbD (2 * k + 1) = false := by
  rw [spread16_getLsbD h (by omega), decide_eq_false (by omega), Bool.false_and]

theorem pixelIndex_indexField_upper (il ih : BitVec 16) {k : Nat} (hk : k < 16) :
    pixelIndex (indexField .upper il ih) k = ih.extractLsb' k 1 ++ il.extractLsb' k 1 :=
  pixelIndex_interleave il ih hk

/-- The two bits of `IDX` from `2k` on are those of the pixel index of ordinal `k`. -/
theorem indexField_upper_getLsbD (il ih : BitVec 16) {k i : Nat} (hk : k < 16) (hi : i < 2) :
    (indexField .upper il ih).getLsbD (2 * k + i) = (ih.extractLsb' k 1 ++ il.extractLsb' k 1).getLsbD i := by
  rw [← pixelIndex_indexField_upper il ih hk, pixelIndex, BitVec.getLsbD_extractLsb', decide_eq_true hi, Bool.true_and]

theorem indexField_upper_getLsbD_even (il ih : BitVec 16) {k : Nat} (hk : k < 16) :
    (indexField .upper il ih).getLsbD (2 * k) = il.getLsbD k :=
  (indexField_upper_getLsbD il ih hk two_pos).trans (by rw [BitVec.getLsbD_append]; simp)

theorem indexField_upper_getLsbD_odd (il ih : BitVec 16) {k : Nat} (hk : k < 16) :
    (indexField .upper il ih).getLsbD (2 * k + 1) = ih.getLsbD k :=
  (indexField_upper_getLsbD il ih hk one_lt_two).trans (by rw [BitVec.getLsbD_append]; simp)

/-- Settles O7: SPREAD16 bit by bit, and the two bits of IDX that make an ordinal's pixel index. -/
theorem indexInterleave : Obligations.IndexInterleave := fun il ih _ hk =>
  ⟨spread16_getLsbD_even il hk, spread16_getLsbD_odd il hk, indexField_upper_getLsbD_even il ih hk,
    indexField_upper_getLsbD_odd il ih hk, pixelIndex_indexField_upper il ih hk⟩

/-! ### The raster before a colour operation (42_color_pixels R145, 45_sequencer R194) -/

/-- A word operation completes wherever its tile exists. -/
theorem exec_word_next {i : Instr} {s : State} (hi : i.kind ≠ .command) (hr : tileInRange s) :
    ∃ t, exec i s = .next t := by
  rcases exec_word_cases i s hi with ⟨hout, -⟩ | ⟨-, wk, n, m, hx, -⟩
  · exact absurd hr hout
  · exact ⟨_, hx⟩

theorem exec_cwPlanar_pixel {f : PlanarWord} {s t : State} (h : exec (.cwPlanar f) s = .next t) (hw : 4 ≤ s.width.toNat)
    {x y : Nat} (hx : x < 4) (hy : y < 4) :
    readPixel t.dst (tilePixel s x y) = planarPixel s.cfg (planarWork f s.work) x y := by
  obtain ⟨-, rfl⟩ := (storeTile_next_iff _ _ _).1 h
  rw [putDst_dst, putWork_dst, cwPlanar_pixel f s hw hx hy]

/-- The pixels a colour operation leaves are computed from its word, the parameters, the working values and the draw
counter, which two states that differ in DST alone share. -/
theorem exec_color_pixel_of_putDst {i : Instr} {s t t' : State} {m : Memory} (hi : i.kind = .color)
    (h : exec i s = .next t) (h' : exec i (putDst m s) = .next t') (hw : 4 ≤ s.width.toNat)
    {x y : Nat} (hx : x < 4) (hy : y < 4) :
    readPixel t.dst (tilePixel s x y) = readPixel t'.dst (tilePixel s x y) := by
  obtain ⟨k, hk, rfl, rfl⟩ := exists_ordinal s.cfg.pixelOrder hx hy
  cases i with
  | cwIndiv f => exact (exec_cwIndiv_pixel h hw hk).trans (exec_cwIndiv_pixel h' hw hk).symm
  | cwPlanar f => exact (exec_cwPlanar_pixel h hw hx hy).trans (exec_cwPlanar_pixel h' hw hx hy).symm
  | cwDiff f => exact (exec_cwDiff_pixel h hw hk).trans (exec_cwDiff_pixel h' hw hk).symm
  | awAlpha f => cases hi
  | decode => cases hi

/-- Settles O17: both runs complete, since the tile exists whatever DST holds, and leave the same pixels. -/
theorem colorIgnoresPriorRaster : Obligations.ColorIgnoresPriorRaster := by
  intro i s m hi hr hw
  have hword : i.kind ≠ .command := by simp [hi]
  obtain ⟨t, h⟩ := exec_word_next hword hr
  obtain ⟨t', h'⟩ := exec_word_next (s := putDst m s) hword hr
  exact ⟨t, t', h, h', fun x y hx hy => exec_color_pixel_of_putDst hi h h' hw hx hy⟩

end Sys2Proof.Machine

/-! The pixels of a planar word (43_planar R163, R164): the interpolation with its products kept apart, and the tile. -/

namespace Sys2Proof.Machine

/-- R163 without differences of control points: `i·H + j·V + 4·O + 2` less `(i + j)·O`, divided by 4. -/
theorem planarChannel_eq_clamp8 (o h v : Byte) (i j : Nat) :
    planarChannel o h v i j =
      clamp8 ((((i * h.toNat + j * v.toNat + 4 * o.toNat + 2 : Nat) : Int) - ((i + j) * o.toNat : Nat)) / 4) := by
  rw [planarChannel]
  congr 2
  push_cast
  ring

/-- Settles O12: the frame of a word operation, the working values of `planarWork`, and R163 in each channel of a pixel. -/
theorem cwPlanarCompletes : Obligations.CwPlanarCompletes := by
  intro f s hr
  refine ⟨_, exec_cwPlanar_next f s hr, cwPlanar_frame f s, rfl, rfl, fun hw i j hi hj => ?_⟩
  have hpixel := exec_cwPlanar_pixel (exec_cwPlanar_next f s hr) hw hi hj
  simp only [planarPixel, planarChannel_eq_clamp8] at hpixel
  exact hpixel

end Sys2Proof.Machine

/-! The pixels of an alpha word (44_alpha R170 to R173): the alpha byte replaced, the colour bytes kept. -/

namespace Sys2Proof.Machine

theorem exec_awAlpha_pixel {f : AlphaWord} {s t : State} (h : exec (.awAlpha f) s = .next t) (hw : 4 ≤ s.width.toNat)
    {p : Nat} (hp : p < 16) :
    readPixel t.dst (tilePixel s (colOf s.cfg.pixelOrder p) (rowOf s.cfg.pixelOrder p)) =
      withAlpha s.cfg.pixelLayout
        (readPixel s.dst (tilePixel s (colOf s.cfg.pixelOrder p) (rowOf s.cfg.pixelOrder p)))
        (alphaValue s.cfg f.base f.mul f.tbl (selector f.sels p)) := by
  obtain ⟨-, rfl⟩ := (storeTile_next_iff _ _ _).1 h
  rw [putDst_dst, putWork_dst, awAlpha_pixel f s hw hp]

/-- Settles O13: the frame of a word operation, the working values of `alphaWork`, and R172 in the alpha byte that an
alpha update stores above the colour bytes it keeps. -/
theorem awAlphaCompletes : Obligations.AwAlphaCompletes := by
  intro f s hr
  have hexec := exec_awAlpha_next f s hr
  refine ⟨_, hexec, awAlpha_frame f s, rfl, rfl, fun hw p hp => ?_⟩
  have hpixel := exec_awAlpha_pixel hexec hw hp
  rw [selector_eq_shift] at hpixel
  exact ⟨(congrArg _ hpixel).trans (withAlpha_color _ _ _), (congrArg _ hpixel).trans (withAlpha_alpha _ _ _)⟩

/-- A byte is in range, so clamping leaves it as it is. -/
theorem clamp8_toNat (b : Byte) : clamp8 b.toNat = b := by
  have hlt : b.toNat < 256 := b.isLt
  have hlow : ¬ (b.toNat : Int) < 0 := by omega
  have hhigh : ¬ 255 < (b.toNat : Int) := by omega
  rw [clamp8, if_neg hlow, if_neg hhigh, Int.toNat_natCast, BitVec.ofNat_toNat, BitVec.setWidth_eq]

/-- A multiplier of 0 takes the modifier out of R172: the alpha value is the base. -/
theorem alphaValue_mul_zero (cfg : Config) (base : BitVec 8) (tbl : BitVec 4) (sel : BitVec 3) :
    alphaValue cfg base 0 tbl sel = base := by
  have hzero : ((0 : BitVec 4).toNat : Int) = 0 := rfl
  rw [alphaValue, hzero, mul_zero, add_zero, clamp8_toNat]

/-- Settles O14: every pixel of the tile has an ordinal, and its alpha value is the base, 255. -/
theorem alphaMultiplierZero : Obligations.AlphaMultiplierZero := by
  intro tbl sels s hr hw
  have hexec := exec_awAlpha_next ⟨255, 0, tbl, sels⟩ s hr
  refine ⟨_, hexec, fun x y hx hy => ?_⟩
  obtain ⟨p, hp, rfl, rfl⟩ := exists_ordinal s.cfg.pixelOrder hx hy
  rw [exec_awAlpha_pixel hexec hw hp, alphaValue_mul_zero, withAlpha_eq]
  rfl

end Sys2Proof.Machine

/-! The command `DECODE` (45_sequencer R181 to R186, R192): acceptance, refusal, the empty image, and its frame. -/

namespace Sys2Proof.Machine

/-! ### `DECODE` while idle -/

theorem exec_decode_of_idle {s : State} (h : s.status.busy = false) : exec .decode s = .next (launch (clearFlags s)) :=
  if_neg (by simp [h])

/-- A START is `DECODE` (10_state R29). -/
theorem step_start {s : State} {rest : List HostEvent} (h : s.host = .writeCtrl 1 :: rest) :
    step s = exec .decode (putHost rest s) := by
  obtain ⟨hstep, -⟩ := stepRunsCommand s 1 rest h
  exact hstep

theorem launch_of_legal {s : State} (h : s.launchLegal) : launch s = accept s := by
  rw [launch, (launchCheck_none_iff s).2 h]

theorem launch_of_check {s : State} {e : LaunchError} (h : launchCheck s = some e) : launch s = refuse e s := by
  rw [launch, h]

/-- A command whose checks pass is begun, or, with no tile to decode, complete at once. -/
theorem exec_decode_of_legal {s : State} (hb : s.status.busy = false) (hl : s.launchLegal) :
    exec .decode s = .next (accept (clearFlags s)) := by
  have hlegal : (clearFlags s).launchLegal := hl
  rw [exec_decode_of_idle hb, launch_of_legal hlegal]

/-- A command one of whose checks fails changes `STATUS` alone. -/
theorem exec_decode_of_check {s : State} {e : LaunchError} (hb : s.status.busy = false) (h : launchCheck s = some e) :
    exec .decode s = .next (putStatus (Status.refusedWith e) s) := by
  have hcheck : launchCheck (clearFlags s) = some e := h
  rw [exec_decode_of_idle hb, launch_of_check hcheck]
  rfl

theorem launchCheck_of_not_formatLegal {s : State} (h : ¬ formatLegal s) :
    launchCheck s = some .unsupportedPixelFormat := if_pos h

theorem launchCheck_of_not_geometryLegal {s : State} (hf : formatLegal s) (hg : ¬ geometryLegal s) :
    launchCheck s = some .invalidGeometry := by
  rw [launchCheck, if_neg (not_not.2 hf), if_pos hg]

theorem launchCheck_of_truncated {s : State} (hf : formatLegal s) (hg : geometryLegal s)
    (hs : s.srcLen < recBytes s * tiles s) : launchCheck s = some .truncatedSource := by
  rw [launchCheck, if_neg (not_not.2 hf), if_neg (not_not.2 hg), if_pos hs]

theorem accept_of_tiles {s : State} (h : tiles s ≠ 0) : accept s = beginCommand s := if_neg h

theorem accept_of_no_tiles {s : State} (h : tiles s = 0) : accept s = putStatus Status.completed (beginCommand s) :=
  (if_pos h).trans (complete_beginCommand s)

/-- The flags a launch clears are written again by the command's begin. -/
theorem beginCommand_clearFlags (s : State) : beginCommand (clearFlags s) = beginCommand s := rfl

/-- An image of non-zero sizes has tiles, one of a zero size has none (45_sequencer R181, R192). -/
theorem tiles_ne_zero_iff {s : State} (hg : geometryLegal s) : tiles s ≠ 0 ↔ s.width ≠ 0 ∧ s.height ≠ 0 := by
  obtain ⟨hw, hh⟩ := (geometryLegal_iff s).1 hg
  have hzero {v : BitVec 32} (hv : v.toNat % 4 = 0) : v.toNat / 4 = 0 ↔ v = 0 := by
    have hz : (0 : BitVec 32).toNat = 0 := rfl
    rw [← BitVec.toNat_inj, hz]
    omega
  rw [tiles_eq, Nat.mul_ne_zero_iff, Ne, Ne, not_congr (hzero hw), not_congr (hzero hh)]

theorem accept_sameConfig (s : State) : sameConfig s (accept s) :=
  ⟨accept_cfg s, accept_format s, accept_width s, accept_height s, accept_srcBase s, accept_srcLen s, accept_dstBase s,
    accept_written s, accept_later s⟩

/-! ### The statements -/

/-- Settles O18: the checks pass and there are tiles, so the command is begun. -/
theorem decodeAccepted : Obligations.DecodeAccepted := by
  intro s hb hformat hwidth hheight hw hh hlen
  have htiles : tiles s ≠ 0 := (tiles_ne_zero_iff ⟨hwidth, hheight⟩).2 ⟨hw, hh⟩
  rw [exec_decode_of_legal hb ⟨hformat, ⟨hwidth, hheight⟩, hlen⟩, accept_of_tiles (s := clearFlags s) htiles,
    beginCommand_clearFlags]
  rfl

/-- Settles O19: the first check that fails names the code. -/
theorem decodeRefusedInOrder : Obligations.DecodeRefusedInOrder := by
  intro s hb known granular needed refusedWith
  exact ⟨fun hformat => exec_decode_of_check hb (launchCheck_of_not_formatLegal hformat),
    fun hformat hgeometry => exec_decode_of_check hb (launchCheck_of_not_geometryLegal hformat hgeometry),
    fun hformat hgeometry hlen => exec_decode_of_check hb (launchCheck_of_truncated hformat hgeometry hlen)⟩

/-- Settles O20: under `Refuse` the code of `Dxt1` is no legal format. -/
theorem dxt1RefusedUnderPolicy : Obligations.Dxt1RefusedUnderPolicy := by
  intro s hb hpolicy hformat hetc1 hrgb hrgba
  have hillegal : ¬ formatLegal s := by
    simp [formatLegal, hformat, hpolicy, hetc1, hrgb, hrgba]
  exact exec_decode_of_check hb (launchCheck_of_not_formatLegal hillegal)

/-- Settles O21: with no tiles the length check passes whatever `SRC_LEN` is, and acceptance completes at once. -/
theorem decodeEmptyImage : Obligations.DecodeEmptyImage := by
  intro s hb hformat hwidth hheight hempty
  have htiles : tiles s = 0 := by
    by_contra hne
    obtain ⟨hw, hh⟩ := (tiles_ne_zero_iff ⟨hwidth, hheight⟩).1 hne
    exact hempty.elim hw hh
  have hlen : recBytes s * tiles s ≤ s.srcLen := by
    rw [htiles, Nat.mul_zero]
    exact Nat.zero_le _
  refine ⟨_, exec_decode_of_legal hb ⟨hformat, ⟨hwidth, hheight⟩, hlen⟩, ?_⟩
  have haccept := accept_of_no_tiles (s := clearFlags s) htiles
  exact ⟨congrArg State.status haccept, accept_src _, accept_dst _, accept_sameConfig (clearFlags s)⟩

/-- Acceptance draws no free value, since a command begun is not interfered with. -/
@[simp] theorem accept_freeNext (s : State) : (accept s).freeNext = s.freeNext := by
  unfold accept
  split
  · rw [complete_beginCommand, putStatus_freeNext, beginCommand_freeNext]
  · rw [beginCommand_freeNext]

/-- Settles O22: a command ignored changes nothing, one refused `STATUS` alone, and one accepted what `accept` writes. -/
theorem decodeFrame : Obligations.DecodeFrame := by
  intro s t h
  rcases execDecode_cases s with ⟨hb, hx⟩ | ⟨hb, e, -, hx⟩ | ⟨hb, -, hx⟩ <;> cases hx.symm.trans h
  · exact ⟨⟨rfl, rfl, rfl, rfl, rfl, rfl, rfl, rfl, rfl⟩, rfl, rfl, rfl, rfl, rfl, fun _ => rfl⟩
  · exact ⟨⟨rfl, rfl, rfl, rfl, rfl, rfl, rfl, rfl, rfl⟩, rfl, rfl, rfl, rfl, rfl, fun hbusy => by simp [hb] at hbusy⟩
  · exact ⟨accept_sameConfig (clearFlags s), accept_src _, accept_dst _, accept_work _, accept_host _, accept_freeNext _,
      fun hbusy => by simp [hb] at hbusy⟩

end Sys2Proof.Machine

/-! The running command (45_sequencer R187 to R191): the advance of the cursor, the command invariant through every step,
and the raster as the only part of DST a command writes. -/

namespace Sys2Proof.Machine

/-! ### The tile walk (45_sequencer R188, R189) -/

/-- The number of tiles before the one the cursor stands at (45_sequencer R191). -/
def tileIndex (s : State) : Nat := s.cur.ty * (s.width.toNat / 4) + s.cur.tx

theorem tileIndex_lt_tiles {s : State} (hx : s.cur.tx < s.width.toNat / 4) (hy : s.cur.ty < s.height.toNat / 4) :
    tileIndex s < tiles s := by
  have hrow : (s.cur.ty + 1) * (s.width.toNat / 4) ≤ (s.height.toNat / 4) * (s.width.toNat / 4) :=
    Nat.mul_le_mul_right _ hy
  rw [tileIndex, tiles_eq, Nat.mul_comm (s.width.toNat / 4)]
  rw [Nat.succ_mul] at hrow
  omega

theorem cursorClosed_iff (s : State) : s.cursorClosed ↔ s.cur.srcPtr = s.srcBase + recBytes s * tileIndex s ∧
    s.cur.dstPtr = s.dstBase + 4 * s.cur.ty * s.width.toNat + 4 * s.cur.tx := Iff.rfl

theorem nextCursor_of_row {s : State} (h : s.cur.tx + 1 < s.width.toNat / 4) : nextCursor s =
    { srcPtr := s.cur.srcPtr + recBytes s, dstPtr := s.cur.dstPtr + 4, tx := s.cur.tx + 1, ty := s.cur.ty } :=
  (nextCursor_eq s).trans (if_pos h)

theorem nextCursor_of_row_end {s : State} (h : ¬ s.cur.tx + 1 < s.width.toNat / 4) : nextCursor s =
    { srcPtr := s.cur.srcPtr + recBytes s, dstPtr := s.cur.dstPtr + 4 + 3 * s.width.toNat, tx := 0, ty := s.cur.ty + 1 } :=
  (nextCursor_eq s).trans (if_neg h)

theorem nextCursor_tx_lt {s : State} (hx : s.cur.tx < s.width.toNat / 4) :
    (nextCursor s).tx < s.width.toNat / 4 := by
  by_cases hrow : s.cur.tx + 1 < s.width.toNat / 4
  · rwa [nextCursor_of_row hrow]
  · rw [nextCursor_of_row_end hrow]
    exact Nat.zero_lt_of_lt hx

/-- The advance goes to the next tile in row order. -/
theorem nextCursor_index {s : State} (hx : s.cur.tx < s.width.toNat / 4) :
    (nextCursor s).ty * (s.width.toNat / 4) + (nextCursor s).tx = tileIndex s + 1 := by
  by_cases hrow : s.cur.tx + 1 < s.width.toNat / 4
  · rw [nextCursor_of_row hrow, tileIndex, Nat.add_assoc]
  · have hend : s.cur.tx + 1 = s.width.toNat / 4 := by omega
    rw [nextCursor_of_row_end hrow, tileIndex, Nat.succ_mul, Nat.add_zero, ← hend, Nat.add_assoc]

theorem nextCursor_srcPtr (s : State) : (nextCursor s).srcPtr = s.cur.srcPtr + recBytes s := by
  rw [nextCursor_eq]
  split <;> rfl

/-- The advance keeps the closed form of `DST_PTR`: past the end of a row `4 * TX` is `WIDTH` (45_sequencer R191). -/
theorem nextCursor_dstPtr {s : State} (hw : s.width.toNat % 4 = 0) (hx : s.cur.tx < s.width.toNat / 4)
    (hd : s.cur.dstPtr = s.dstBase + 4 * s.cur.ty * s.width.toNat + 4 * s.cur.tx) :
    (nextCursor s).dstPtr = s.dstBase + 4 * (nextCursor s).ty * s.width.toNat + 4 * (nextCursor s).tx := by
  by_cases hrow : s.cur.tx + 1 < s.width.toNat / 4
  · rw [nextCursor_of_row hrow, hd, Nat.mul_succ, Nat.add_assoc]
  · have hend : 4 * s.cur.tx + 4 = s.width.toNat := by omega
    rw [nextCursor_of_row_end hrow, hd, ← hend]
    ring

/-- The advance keeps the closed form of the cursor. -/
theorem cursorClosed_advance {s : State} (hg : geometryLegal s) (hx : s.cur.tx < s.width.toNat / 4)
    (hc : s.cursorClosed) : (putCursor (nextCursor s) s).cursorClosed := by
  obtain ⟨hw, -⟩ := (geometryLegal_iff s).1 hg
  obtain ⟨hsrc, hdst⟩ := (cursorClosed_iff s).1 hc
  have hindex : tileIndex (putCursor (nextCursor s) s) = tileIndex s + 1 := nextCursor_index hx
  refine (cursorClosed_iff _).2 ⟨?_, nextCursor_dstPtr hw hx hdst⟩
  rw [hindex, putCursor_cur, nextCursor_srcPtr, hsrc]
  exact Nat.add_assoc _ _ _

/-- The end of a tile is the advance of its cursor, and after the last tile completion. -/
theorem tileDone_cases (s : State) :
    ((nextCursor s).ty < s.height.toNat / 4 ∧ tileDone s = putPhase .color (putCursor (nextCursor s) s)) ∨
    (¬ (nextCursor s).ty < s.height.toNat / 4 ∧
      tileDone s = complete (putPhase .color (putCursor (nextCursor s) s))) := by
  rw [tileDone_eq]
  split
  · exact .inl ⟨‹_›, rfl⟩
  · exact .inr ⟨‹_›, rfl⟩

theorem wordDone_of_record {s : State} (hp : s.phase = .color) (ha : hasAlpha s) : wordDone s = putPhase .alpha s :=
  if_pos ⟨hp, ha⟩

theorem wordDone_of_tile {s : State} (h : ¬ (s.phase = .color ∧ hasAlpha s)) : wordDone s = tileDone s := if_neg h

@[simp] theorem tileDone_cur (s : State) : (tileDone s).cur = nextCursor s := by
  rcases tileDone_cases s with ⟨-, h⟩ | ⟨-, h⟩ <;> rw [h]
  · rfl
  · exact complete_cur _

@[simp] theorem tileDone_phase (s : State) : (tileDone s).phase = .color := by
  rcases tileDone_cases s with ⟨-, h⟩ | ⟨-, h⟩ <;> rw [h]
  · rfl
  · exact complete_phase _

theorem tileDone_status (s : State) :
    (tileDone s).status = if (nextCursor s).ty < s.height.toNat / 4 then s.status else Status.completed := by
  rcases tileDone_cases s with ⟨hlt, h⟩ | ⟨hlt, h⟩ <;> rw [h]
  · rw [if_pos hlt]
    rfl
  · rw [if_neg hlt, complete_status]

/-! ### The step of a running command -/

/-- A fetch and the stores of its word leave every register alone. -/
theorem fetched_put_sameRegisters (s : State) (wk : Work) (n : Nat) (m : Memory) :
    sameRegisters s (putDst m (putFree n (putWork wk (fetched s)))) := by
  simp [sameRegisters]

/-- Busy and with nobody but the decoder acting, a step that answers a next state executed the fetched word, which wrote
its tile alone, and went on from there. -/
theorem step_busy_next {s t : State} (hq : s.hostQuiet) (hb : s.status.busy = true) (h : step s = .next t) :
    ∃ u, exec (fetchInstr s) (fetched (popHost s)) = .next u ∧ wordFrame (popHost s) u ∧ t = wordDone u := by
  cases decoderStep_of_quiet hq h with
  | idle hidle _ => exact absurd (hb.symm.trans hidle) (by decide)
  | word _ hf hr wk n m hx hwf hm ht =>
    exact ⟨_, hx, ⟨fetched_put_sameRegisters (popHost s) wk n m, hm .dst⟩, ht⟩

theorem sameRegisters.sameConfig {s t : State} (h : sameRegisters s t) : Machine.sameConfig s t := by
  obtain ⟨hg, hf, hw, hh, hb, hl, hd, hwr, hlt, -⟩ := h
  exact ⟨hg, hf, hw, hh, hb, hl, hd, hwr, hlt⟩

theorem sameRegisters.status_eq {s t : State} (h : sameRegisters s t) : t.status = s.status := by
  obtain ⟨-, -, -, -, -, -, -, -, -, hs, -⟩ := h
  exact hs

theorem sameRegisters.commandInv {s t : State} (h : sameRegisters s t) (hi : s.commandInv) : t.commandInv := by
  have hconfig := h.sameConfig
  obtain ⟨-, -, -, -, -, -, -, -, -, hs, hc, hp, -⟩ := h
  exact (commandInv_congr hconfig hs hc hp).2 hi

/-- Settles O27: the step ends in `wordDone` of a state with the cursor, phase and configuration it began with. -/
theorem cursorAdvance : Obligations.CursorAdvance := by
  intro s t hh hb h last
  have hq : s.hostQuiet := by simp [State.hostQuiet, hh]
  obtain ⟨u, -, ⟨⟨hg, hf, hw, hheight, -, -, -, -, -, hs, hc, hp, -⟩, -⟩, rfl⟩ := step_busy_next hq hb h
  have hrec : (u.phase = .color ∧ hasAlpha u) ↔ (s.phase = .color ∧ hasAlpha s) := by
    rw [hp, hasAlpha_congr hg hf]
    rfl
  have hnext : nextCursor u = nextCursor s := nextCursor_congr hg hc hw hf
  split
  · rename_i hs'
    obtain ⟨hcolor, halpha⟩ := hrec.2 hs'
    rw [wordDone_of_record hcolor halpha]
    exact ⟨hc, rfl, hs⟩
  · rename_i hs'
    rw [wordDone_of_tile fun hu => hs' (hrec.1 hu), tileDone_phase, tileDone_cur, tileDone_status, hnext, hheight, hs]
    refine ⟨rfl, nextCursor_srcPtr s, ?_⟩
    by_cases hrow : s.cur.tx + 1 < s.width.toNat / 4
    · rw [nextCursor_of_row hrow, if_neg (not_not.2 hrow), if_neg (not_not.2 hrow), if_neg (not_not.2 hrow)]
      exact ⟨rfl, rfl, rfl, rfl⟩
    · rw [nextCursor_of_row_end hrow, if_pos hrow, if_pos hrow, if_pos hrow]
      exact ⟨rfl, rfl, rfl, rfl⟩

/-! ### The command invariant -/

theorem commandInv_of_idle {s : State} (hb : s.status.busy = false) (hp : s.phase = .color) : s.commandInv :=
  ⟨fun h => by simp [hb] at h, fun h => by simp [hp] at h⟩

/-- No alpha word is pending while idle. -/
theorem State.commandInv.phase_of_idle {s : State} (h : s.commandInv) (hb : s.status.busy = false) : s.phase = .color := by
  obtain ⟨-, halpha⟩ := h
  cases hp : s.phase with
  | color => rfl
  | alpha =>
    obtain ⟨hbusy, -⟩ := halpha hp
    exact absurd (hb.symm.trans hbusy) (by decide)

/-- A command begun stands at the first tile, which exists where there are tiles at all. -/
theorem accept_commandInv {s : State} (hl : s.launchLegal) : (accept s).commandInv := by
  by_cases ht : tiles s = 0
  · rw [accept_of_no_tiles ht]
    exact commandInv_of_idle rfl rfl
  · rw [accept_of_tiles ht]
    rw [tiles_eq] at ht
    have hx : 0 < s.width.toNat / 4 := Nat.pos_of_ne_zero fun h => ht (by rw [h, Nat.zero_mul])
    have hy : 0 < s.height.toNat / 4 := Nat.pos_of_ne_zero fun h => ht (by rw [h, Nat.mul_zero])
    have hclosed : (beginCommand s).cursorClosed := by
      simp [State.cursorClosed, firstTile]
    exact ⟨fun _ => ⟨hl, hx, hy, hclosed⟩, nofun⟩

theorem execDecode_commandInv {s t : State} (hi : s.commandInv) (h : execDecode s = .next t) : t.commandInv := by
  rcases execDecode_cases s with ⟨-, hx⟩ | ⟨hb, e, -, hx⟩ | ⟨-, hc, hx⟩ <;> cases hx.symm.trans h
  · exact hi
  · exact commandInv_of_idle rfl (hi.phase_of_idle hb)
  · exact accept_commandInv ((launchCheck_none_iff _).1 hc)

/-- The end of a word of a running command goes on to the record's alpha word, to the next tile, or to DONE. -/
theorem wordDone_commandInv {s : State} (hb : s.status.busy = true) (hi : s.commandInv) : (wordDone s).commandInv := by
  obtain ⟨hlegal, hx, hy, hclosed⟩ := hi.1 hb
  by_cases hrec : s.phase = .color ∧ hasAlpha s
  · rw [wordDone_of_record hrec.1 hrec.2]
    exact ⟨fun _ => ⟨hlegal, hx, hy, hclosed⟩, fun _ => ⟨hb, hrec.2⟩⟩
  · rw [wordDone_of_tile hrec]
    rcases tileDone_cases s with ⟨hlt, h⟩ | ⟨-, h⟩ <;> rw [h]
    · exact ⟨fun _ => ⟨hlegal, nextCursor_tx_lt hx, hlt, cursorClosed_advance hlegal.2.1 hx hclosed⟩, nofun⟩
    · exact commandInv_of_idle (congrArg Status.busy (complete_status _)) (complete_phase _)

theorem ConfigStep.commandInv {s t : State} (h : ConfigStep s t) (hb : s.status.busy = false) (hi : s.commandInv) :
    t.commandInv := by
  have hp := hi.phase_of_idle hb
  rcases h with ⟨v, rfl⟩ | ⟨v, rfl⟩ | ⟨v, rfl⟩ | ⟨v, rfl⟩ | ⟨v, rfl⟩ | ⟨v, rfl⟩ <;>
    exact commandInv_of_idle hb hp

/-- A register written during the command keeps its value until DONE, so the invariant reads the same (log 13). -/
theorem LaterStep.commandInv {n : Nat} {s t : State} (h : LaterStep n s t) (hi : s.commandInv) : t.commandInv := by
  rcases h with rfl | rfl | rfl | rfl | rfl | rfl <;> exact hi

theorem noteTouch_commandInv (b : Bool) {s : State} (hi : s.commandInv) : (noteTouch b s).commandInv := by
  unfold noteTouch
  split <;> exact hi

theorem DecoderStep.commandInv {s t : State} (h : DecoderStep s t) (hi : s.commandInv) : t.commandInv := by
  cases h with
  | idle hb h => exact h ▸ hi
  | word hb hf hr wk n m hx hwf hm h =>
    have hregs := fetched_put_sameRegisters s wk n m
    rw [h]
    generalize putDst m (putFree n (putWork wk (fetched s))) = u at hregs
    exact wordDone_commandInv (hregs.status_eq ▸ hb) (hregs.commandInv hi)

/-- Every move keeps the command invariant: the decoder's word advances the cursor, a launch sets it, a reset ends the
command, and no access of the host changes a register of a running command. -/
theorem Move.commandInv {s t : State} (h : Move s t) (hi : s.commandInv) : t.commandInv := by
  cases h with
  | decoder h => exact h.commandInv hi
  | launch h => exact execDecode_commandInv hi h
  | nothing h => exact h ▸ hi
  | config hb h => exact h.commandInv hb hi
  | disturb hb u hu h =>
    have hput : (putInterfered true (putFree (s.freeNext + 1) u)).commandInv := hu.commandInv hi
    exact h ▸ hput
  | writeSrc a v ha h =>
    have hput : (putSrc (Memory.write s.src a v) (noteTouch (decide (inSource s a)) s)).commandInv :=
      noteTouch_commandInv _ hi
    exact h ▸ hput
  | writeDst p v hp h =>
    have hput : (putDst (writePixel s.dst p v) (noteTouch (decide (inRaster s p)) s)).commandInv :=
      noteTouch_commandInv _ hi
    exact h ▸ hput
  | readDst p hp h => exact h ▸ noteTouch_commandInv _ hi
  | reset h => exact h ▸ commandInv_of_idle rfl rfl

theorem popHost_commandInv {s : State} (hi : s.commandInv) : (popHost s).commandInv := hi

/-- Settles O38, by the inversion of `step`. -/
theorem stepKeepsCommandInvariant : Obligations.StepKeepsCommandInvariant :=
  fun _ _ hi h => (step_next_cases h).commandInv (popHost_commandInv hi)

/-! ### The raster of the command (45_sequencer R190) -/

theorem tilePixel_of_cursorClosed {s : State} (h : s.cursorClosed) (x y : Nat) :
    tilePixel s x y = rasterPixel s s.cur.tx s.cur.ty x y := by
  obtain ⟨-, hdst⟩ := h
  rw [tilePixel, rasterPixel, hdst]
  ring

/-- A pixel of a tile of the image lies in one row of the raster. -/
theorem rasterPixel_inRaster {s : State} {tx ty x y : Nat} (htx : tx < s.width.toNat / 4) (hty : ty < s.height.toNat / 4)
    (hx : x < 4) (hy : y < 4) : inRaster s (rasterPixel s tx ty x y) := by
  have hrow : (4 * ty + y + 1) * s.width.toNat ≤ s.height.toNat * s.width.toNat := Nat.mul_le_mul_right _ (by omega)
  rw [Nat.succ_mul, Nat.mul_comm s.height.toNat] at hrow
  unfold inRaster rasterPixel rasterPixels
  omega

/-- A tile of the image lies in the raster, so a byte outside the raster is outside the tile. -/
theorem outsideTile_of_not_inRaster {s : State} (hi : s.commandInv) (hb : s.status.busy = true) {a : Nat}
    (h : ¬ inRaster s (a / 4)) : outsideTile s a := by
  obtain ⟨-, htx, hty, hclosed⟩ := hi.1 hb
  intro x y hx hy he
  rw [he, tilePixel_of_cursorClosed hclosed] at h
  exact h (rasterPixel_inRaster htx hty hx hy)

/-- Completion leaves every byte outside the raster alone, interference or not. -/
theorem load_complete_of_not_inRaster {s : State} {a : Nat} (h : ¬ inRaster s (a / 4)) :
    Memory.load .dst (complete s).dst a = Memory.load .dst s.dst a := by
  rw [complete_dst]
  split
  · exact load_scramble_other _ _ _ _ _ _ _ (by unfold inRaster at h; omega)
  · rfl

theorem load_wordDone_of_not_inRaster {s : State} {a : Nat} (h : ¬ inRaster s (a / 4)) :
    Memory.load .dst (wordDone s).dst a = Memory.load .dst s.dst a := by
  by_cases hrec : s.phase = .color ∧ hasAlpha s
  · rw [wordDone_of_record hrec.1 hrec.2, putPhase_dst]
  · rw [wordDone_of_tile hrec]
    rcases tileDone_cases s with ⟨-, hd⟩ | ⟨-, hd⟩ <;> rw [hd]
    · rfl
    · exact load_complete_of_not_inRaster (s := putPhase .color (putCursor (nextCursor s) s)) h

/-- Settles O40: the word writes its tile, which lies in the raster, and completion writes at most the raster. -/
theorem commandWritesOnlyRaster : Obligations.CommandWritesOnlyRaster := by
  intro s t hi hb hq h a ha
  obtain ⟨u, -, ⟨hregs, hframe⟩, rfl⟩ := step_busy_next hq hb h
  have hraster : ¬ inRaster u (a / 4) := fun hu => ha ((inRaster_congr hregs.sameConfig _).1 hu)
  rw [load_wordDone_of_not_inRaster hraster,
    hframe a (outsideTile_of_not_inRaster (popHost_commandInv hi) hb ha)]
  rfl

end Sys2Proof.Machine

/-! What one tile holds after its words (42_color_pixels R147, 44_alpha R173, 45_sequencer R187): the pixels a word operation
leaves as a function of its word and the parameters, the words a running command fetches, and the record of `Etc2_RGBA`. -/

namespace Sys2Proof.Machine

/-! ### The pixels of a word operation, as functions of the word -/

theorem sameColor_refl (isOpen : Rgb Bool) (v : Pixel) : sameColor isOpen v v := ⟨fun _ => rfl, fun _ => rfl, fun _ => rfl⟩

/-- A differential channel that is not open has the byte that the word alone gives, whatever the draws are: in sub-block 0
no draw is used, and in sub-block 1 `BASE[1]` is in range. -/
theorem colorChannel_diff_of_not_open (p : RgOverflowPolicy) (draw draw' base base' sub : Nat) (m : Int) (c0 : Byte) {c1 : Int}
    (h : (outside5 c1 && decide (sub ≠ 0)) = false) :
    colorChannel p (outside5 c1 && decide (sub ≠ 0)) draw (if sub = 0 then c0 else diffExpand p base c1) m =
      colorChannel p false draw' (if sub = 0 then c0 else diffExpand p base' c1) m := by
  rw [h, colorChannel_closed, colorChannel_closed]
  by_cases hsub : sub = 0
  · rw [if_pos hsub, if_pos hsub]
  · have hrange : outside5 c1 = false := by simpa [hsub] using h
    rw [if_neg hsub, if_neg hsub, diffExpand, diffExpand, hrange]
    rfl

/-- A differential word's pixel has the colour the word gives, its open channels apart (41_color_endpoints R130). -/
theorem sameColor_diffWork (cfg : Config) (f : DiffWord) (wk : Work) (draw k : Nat) :
    sameColor (openChannels cfg (.cwDiff f) k) (colorPixel cfg (diffWork cfg draw f wk) (diffOpen f) draw k)
      (wordPixel cfg (.cwDiff f) k) := by
  have hbase (d : Nat) (w : Work) : ordinalBase cfg (diffWork cfg d f w) k =
      if ordinalSub cfg (diffWork cfg draw f wk) k = 0 then f.c0.map exp5 else (diffWork cfg d f w).base1 := rfl
  rw [wordPixel, colorPixel, colorPixel]
  simp only [sameColor, pack_red, pack_green, pack_blue, hbase, apply_ite Rgb.r, apply_ite Rgb.g, apply_ite Rgb.b]
  exact ⟨colorChannel_diff_of_not_open _ _ _ _ _ _ _ _, colorChannel_diff_of_not_open _ _ _ _ _ _ _ _,
    colorChannel_diff_of_not_open _ _ _ _ _ _ _ _⟩

/-- A colour operation leaves each ordinal the colour its word gives, open channels apart, and alpha 255. -/
theorem exec_color_pixel {i : Instr} {s t : State} (hi : i.kind = .color) (h : exec i s = .next t)
    (hw : 4 ≤ s.width.toNat) {k : Nat} (hk : k < 16) {v : Pixel}
    (hv : readPixel t.dst (tilePixel s (colOf s.cfg.pixelOrder k) (rowOf s.cfg.pixelOrder k)) = v) :
    sameColor (openChannels s.cfg i k) v (wordPixel s.cfg i k) ∧ v.extractLsb' 24 8 = 255 := by
  subst hv
  cases i with
  | cwIndiv f =>
    rw [exec_cwIndiv_pixel h hw hk]
    exact ⟨sameColor_refl _ _, pack_alpha _ _ _ _ _⟩
  | cwPlanar f =>
    rw [exec_cwPlanar_pixel h hw (colOf_lt _ hk) (rowOf_lt _ hk)]
    exact ⟨sameColor_refl _ _, pack_alpha _ _ _ _ _⟩
  | cwDiff f =>
    rw [exec_cwDiff_pixel h hw hk]
    exact ⟨sameColor_diffWork _ _ _ _ _, pack_alpha _ _ _ _ _⟩
  | awAlpha f => cases hi
  | decode => cases hi

/-- An alpha update keeps each colour byte (44_alpha R173). -/
theorem withAlpha_byte (l : PixelLayout) (old : Pixel) (a : Byte) {lo : Nat} (h : lo + 8 ≤ 24) :
    (withAlpha l old a).extractLsb' lo 8 = old.extractLsb' lo 8 := by
  have hbyte (v : Pixel) : v.extractLsb' lo 8 = (v.extractLsb' 0 24).extractLsb' lo 8 := by
    rw [extractLsb'_extractLsb' v h, Nat.zero_add]
  rw [hbyte (withAlpha l old a), withAlpha_color, ← hbyte old]

theorem sameColor_withAlpha {isOpen : Rgb Bool} {v p : Pixel} (l : PixelLayout) (a : Byte) (h : sameColor isOpen v p) :
    sameColor isOpen (withAlpha l v a) p := by
  obtain ⟨hr, hg, hb⟩ := h
  exact ⟨fun ho => (withAlpha_byte l v a (by omega)).trans (hr ho), fun ho => (withAlpha_byte l v a (by omega)).trans (hg ho),
    fun ho => (withAlpha_byte l v a (by omega)).trans (hb ho)⟩

/-! ### The pixels of a tile of the image -/

/-- The pixels of tile (`tx`, `ty`) in `m` have the colour of the tile's colour word, its open channels apart, and the given
alpha of each ordinal. -/
def tileShows (s : State) (m : Memory) (tx ty : Nat) (alpha : Nat → Byte) : Prop :=
  ∀ k, k < 16 →
    let i := decodeColor s.cfg (tileColorWord s tx ty)
    let v := readPixel m (rasterPixel s tx ty (colOf s.cfg.pixelOrder k) (rowOf s.cfg.pixelOrder k))
    sameColor (openChannels s.cfg i k) v (wordPixel s.cfg i k) ∧ v.extractLsb' 24 8 = alpha k

/-- The alpha the alpha word of tile (`tx`, `ty`) gives an ordinal, as SRC holds it. -/
def tileWordAlpha (s : State) (tx ty k : Nat) : Byte :=
  alphaOf s.cfg (alphaFields s.cfg.layoutAlphaHdr (tileAlphaWord s tx ty)) k

/-- The alpha of an ordinal of tile (`tx`, `ty`) of a decoded image: 255 in the formats without alpha words. -/
def tileAlpha (s : State) (tx ty k : Nat) : Byte := if hasAlpha s then tileWordAlpha s tx ty k else 255

theorem tileColorWord_congr {s t : State} (h : sameConfig s t) (hsrc : t.src = s.src) (tx ty : Nat) :
    tileColorWord t tx ty = tileColorWord s tx ty := by
  obtain ⟨hg, hf, hw, -, hb, -⟩ := h
  simp only [tileColorWord, recBytes_congr hg hf, hasAlpha_congr hg hf, hg, hsrc, hb, hw]

theorem tileAlphaWord_congr {s t : State} (h : sameConfig s t) (hsrc : t.src = s.src) (tx ty : Nat) :
    tileAlphaWord t tx ty = tileAlphaWord s tx ty := by
  obtain ⟨hg, hf, hw, -, hb, -⟩ := h
  rw [tileAlphaWord, tileAlphaWord, recBytes_congr hg hf, hg, hsrc, hb, hw]

theorem tileWordAlpha_congr {s t : State} (h : sameConfig s t) (hsrc : t.src = s.src) :
    tileWordAlpha t = tileWordAlpha s := by
  funext tx ty k
  rw [tileWordAlpha, tileWordAlpha, tileAlphaWord_congr h hsrc, h.1]

theorem tileAlpha_congr {s t : State} (h : sameConfig s t) (hsrc : t.src = s.src) : tileAlpha t = tileAlpha s := by
  funext tx ty k
  unfold tileAlpha
  simp only [tileWordAlpha_congr h hsrc, hasAlpha_congr h.1 h.2.1]

theorem rasterPixel_congr {s t : State} (h : sameConfig s t) (tx ty x y : Nat) :
    rasterPixel t tx ty x y = rasterPixel s tx ty x y := by
  obtain ⟨-, -, hw, -, -, -, hd, -⟩ := h
  rw [rasterPixel, rasterPixel, hw, hd]

/-- What a tile shows is a matter of the configuration, SRC and the given DST. -/
theorem tileShows_congr {s t : State} (h : sameConfig s t) (hsrc : t.src = s.src) (m : Memory) (tx ty : Nat)
    (alpha : Nat → Byte) : tileShows t m tx ty alpha ↔ tileShows s m tx ty alpha := by
  unfold tileShows
  simp only [tileColorWord_congr h hsrc, rasterPixel_congr h, h.1]

theorem readPixel_congr {m m' : Memory} {p : Nat} (h : ∀ a, a / 4 = p → Memory.load .dst m' a = Memory.load .dst m a) :
    readPixel m' p = readPixel m p := by
  rw [readPixel, readPixel, h _ (by omega), h _ (by omega), h _ (by omega), h _ (by omega)]

/-- A pixel of the raster determines its tile (45_sequencer R191). -/
theorem rasterPixel_tile_inj {s : State} {tx ty x y tx' ty' x' y' : Nat} (htx : tx < s.width.toNat / 4)
    (htx' : tx' < s.width.toNat / 4) (hx : x < 4) (hy : y < 4) (hx' : x' < 4) (hy' : y' < 4)
    (h : rasterPixel s tx ty x y = rasterPixel s tx' ty' x' y') : tx = tx' ∧ ty = ty' := by
  have hcol : 4 * tx + x < s.width.toNat := by omega
  have hcol' : 4 * tx' + x' < s.width.toNat := by omega
  have hsum : s.width.toNat * (4 * ty + y) + (4 * tx + x) = s.width.toNat * (4 * ty' + y') + (4 * tx' + x') := by
    rw [rasterPixel, rasterPixel, Nat.mul_comm, Nat.mul_comm (4 * ty' + y')] at h
    omega
  have hrow : 4 * ty + y = 4 * ty' + y' := by
    have hdiv := congrArg (· / s.width.toNat) hsum
    simpa [Nat.mul_add_div (Nat.zero_lt_of_lt hcol), Nat.div_eq_of_lt hcol, Nat.div_eq_of_lt hcol'] using hdiv
  rw [hrow] at hsum
  omega

/-- A word of one tile leaves the pixels of every other tile of the image as they were. -/
theorem tileShows_of_other_tile {s : State} {m m' : Memory} {tx ty : Nat} {alpha : Nat → Byte} (hi : s.commandInv)
    (hb : s.status.busy = true) (hm : ∀ a, outsideTile s a → Memory.load .dst m' a = Memory.load .dst m a)
    (htx : tx < s.width.toNat / 4) (hne : ¬ (tx = s.cur.tx ∧ ty = s.cur.ty)) (h : tileShows s m tx ty alpha) :
    tileShows s m' tx ty alpha := by
  obtain ⟨-, hcur, -, hclosed⟩ := hi.1 hb
  intro k hk
  have hpixel : readPixel m' (rasterPixel s tx ty (colOf s.cfg.pixelOrder k) (rowOf s.cfg.pixelOrder k)) =
      readPixel m (rasterPixel s tx ty (colOf s.cfg.pixelOrder k) (rowOf s.cfg.pixelOrder k)) := by
    refine readPixel_congr fun a ha => hm a fun x y hx hy he => hne ?_
    rw [ha, tilePixel_of_cursorClosed hclosed] at he
    exact rasterPixel_tile_inj htx hcur (colOf_lt _ hk) (rowOf_lt _ hk) hx hy he
  rw [hpixel]
  exact h k hk

/-! ### The words of a running command (45_sequencer R187, R191) -/

theorem fetchInstr_of_color {s : State} (hi : s.interfered = false) (hp : s.phase = .color) (hc : s.cursorClosed) :
    fetchInstr s = decodeColor s.cfg (tileColorWord s s.cur.tx s.cur.ty) := by
  obtain ⟨hsrc, -⟩ := hc
  have haddr : fetchAddr s = s.cur.srcPtr + if hasAlpha s then 8 else 0 := by
    rw [fetchAddr_eq, hp]
    dsimp only
    split <;> rfl
  rw [fetchInstr, hp, fetchWord, hi, haddr, hsrc]
  rfl

theorem fetchInstr_of_alpha {s : State} (hi : s.interfered = false) (hp : s.phase = .alpha) (hc : s.cursorClosed) :
    fetchInstr s = decodeAlpha s.cfg (tileAlphaWord s s.cur.tx s.cur.ty) := by
  obtain ⟨hsrc, -⟩ := hc
  have haddr : fetchAddr s = s.cur.srcPtr := by rw [fetchAddr_eq, hp]
  rw [fetchInstr, hp, fetchWord, hi, haddr, hsrc]
  rfl

/-- The tile a running command fetched a word for is the one its cursor stands at. -/
theorem tilePixel_fetched {s : State} (hc : s.cursorClosed) (x y : Nat) :
    tilePixel (fetched (popHost s)) x y = rasterPixel s s.cur.tx s.cur.ty x y :=
  (tilePixel_congr (s := s) (fetched_cur _) (fetched_width _) x y).trans (tilePixel_of_cursorClosed hc x y)

/-- After its colour word a tile shows that word's colour, and alpha 255. -/
theorem tileShows_of_color_word {s u : State} (hi : s.commandInv) (hb : s.status.busy = true) (hclean : s.interfered = false)
    (hp : s.phase = .color) (h : exec (fetchInstr s) (fetched (popHost s)) = .next u) :
    tileShows s u.dst s.cur.tx s.cur.ty fun _ => 255 := by
  obtain ⟨-, htx, -, hclosed⟩ := hi.1 hb
  rw [fetchInstr_of_color hclean hp hclosed] at h
  have hw : 4 ≤ (fetched (popHost s)).width.toNat := by
    rw [fetched_width]
    exact (by omega : 4 ≤ s.width.toNat)
  intro k hk
  exact exec_color_pixel (decodeColor_kind _ _) h hw hk (congrArg (readPixel u.dst) (tilePixel_fetched hclosed _ _))

/-- After its alpha word a tile keeps the colour it showed and has that word's alpha. -/
theorem tileShows_of_alpha_word {s u : State} {alpha : Nat → Byte} (hi : s.commandInv) (hb : s.status.busy = true)
    (hclean : s.interfered = false) (hp : s.phase = .alpha)
    (h : exec (fetchInstr s) (fetched (popHost s)) = .next u) (hcolor : tileShows s s.dst s.cur.tx s.cur.ty alpha) :
    tileShows s u.dst s.cur.tx s.cur.ty (tileWordAlpha s s.cur.tx s.cur.ty) := by
  obtain ⟨-, htx, -, hclosed⟩ := hi.1 hb
  rw [fetchInstr_of_alpha hclean hp hclosed] at h
  have hw : 4 ≤ (fetched (popHost s)).width.toNat := by
    rw [fetched_width]
    exact (by omega : 4 ≤ s.width.toNat)
  intro k hk i v
  have hpixel := exec_awAlpha_pixel h hw hk
  rw [tilePixel_fetched hclosed] at hpixel
  obtain ⟨hsame, -⟩ := hcolor k hk
  have hv : v = _ := hpixel
  rw [hv]
  exact ⟨sameColor_withAlpha _ _ hsame, withAlpha_alpha _ _ _⟩

/-- After its last word a tile shows what its words decode to. -/
theorem tileShows_of_last_word {s u : State} (hi : s.commandInv) (hb : s.status.busy = true) (hclean : s.interfered = false)
    (h : exec (fetchInstr s) (fetched (popHost s)) = .next u) (hlast : ¬ (s.phase = .color ∧ hasAlpha s))
    (hcolor : s.phase = .alpha → tileShows s s.dst s.cur.tx s.cur.ty fun _ => 255) :
    tileShows s u.dst s.cur.tx s.cur.ty (tileAlpha s s.cur.tx s.cur.ty) := by
  cases hp : s.phase with
  | color =>
    have halpha : tileAlpha s s.cur.tx s.cur.ty = fun _ => 255 := funext fun k => if_neg fun ha => hlast ⟨hp, ha⟩
    rw [halpha]
    exact tileShows_of_color_word hi hb hclean hp h
  | alpha =>
    obtain ⟨-, ha⟩ := hi.2 hp
    have halpha : tileAlpha s s.cur.tx s.cur.ty = tileWordAlpha s s.cur.tx s.cur.ty := funext fun k => if_pos ha
    rw [halpha]
    exact tileShows_of_alpha_word hi hb hclean hp h (hcolor hp)

/-! ### The step of a running command completes -/

/-- The next word of a running command lies in its source bytes, and so in the address space (premise `P-src`). -/
theorem fetchInRange_of_running {s : State} (hi : s.commandInv) (hb : s.status.busy = true) (hr : s.regionsExist) :
    fetchInRange s := by
  obtain ⟨-, htx, hty, hclosed⟩ := hi.1 hb
  obtain ⟨hsrc, -⟩ := (cursorClosed_iff s).1 hclosed
  obtain ⟨hregion, -, -⟩ := hr
  have hrecord : recBytes s * (tileIndex s + 1) ≤ recBytes s * tiles s :=
    Nat.mul_le_mul_left _ (tileIndex_lt_tiles htx hty)
  have hword : fetchAddr s + 8 ≤ s.cur.srcPtr + recBytes s := by
    rw [fetchAddr_eq, recBytes_eq]
    by_cases ha : hasAlpha s
    · rw [if_pos ha, if_pos ha]
      cases s.phase <;> dsimp only <;> omega
    · rw [if_neg ha, if_neg ha]
      cases s.phase <;> exact Nat.le_refl _
  rw [Nat.mul_succ] at hrecord
  unfold fetchInRange
  omega

/-- The tile of a running command lies in its raster, and so in the pixel index space (premise `P-dst`). -/
theorem tileInRange_of_running {s : State} (hi : s.commandInv) (hb : s.status.busy = true) (hr : s.regionsExist) :
    tileInRange s := by
  obtain ⟨-, htx, hty, hclosed⟩ := hi.1 hb
  obtain ⟨-, -, hregion⟩ := hr
  obtain ⟨-, hraster⟩ := rasterPixel_inRaster htx hty (x := 3) (y := 3) (by omega) (by omega)
  unfold tileInRange
  rw [tilePixel_of_cursorClosed hclosed]
  exact hraster.trans_le hregion

/-- A running command whose regions exist executes its next word. -/
theorem step_running {s : State} (hi : s.commandInv) (hb : s.status.busy = true) (hr : s.regionsExist) (hq : s.hostQuiet) :
    ∃ u, exec (fetchInstr s) (fetched (popHost s)) = .next u ∧ wordFrame (popHost s) u ∧ step s = .next (wordDone u) := by
  have hfetch : fetchInRange (popHost s) := fetchInRange_of_running hi hb hr
  have htile : tileInRange (fetched (popHost s)) :=
    (tileInRange_congr (s := s) (fetched_cfg _) (fetched_cur _) (fetched_width _)).2 (tileInRange_of_running hi hb hr)
  obtain ⟨u, hu⟩ := exec_word_next (fetchInstr_kind (popHost s)) htile
  have hstep : step s = .next (afterInstr (fetchInstr (popHost s)) u) := by
    rw [step_quiet hq, decoderPlan, if_pos (show (popHost s).status.busy = true from hb), if_pos hfetch, runPlan, hu,
      afterOutcome]
  obtain ⟨v, hv, hframe, hdone⟩ := step_busy_next hq hb hstep
  exact ⟨v, hv, hframe, hdone ▸ hstep⟩

/-! ### A record of two words -/

/-- Without interference the end of a word leaves DST alone. -/
theorem wordDone_dst_of_not_interfered {s : State} (h : s.interfered = false) : (wordDone s).dst = s.dst := by
  by_cases hrec : s.phase = .color ∧ hasAlpha s
  · rw [wordDone_of_record hrec.1 hrec.2, putPhase_dst]
  · rw [wordDone_of_tile hrec]
    rcases tileDone_cases s with ⟨-, hd⟩ | ⟨-, hd⟩ <;> rw [hd]
    · rfl
    · rw [complete_quiet (s := putPhase .color (putCursor (nextCursor s) s)) h]
      rfl

theorem sameRegisters.interfered_eq {s t : State} (h : sameRegisters s t) : t.interfered = s.interfered := by
  obtain ⟨-, -, -, -, -, -, -, -, -, -, -, -, -, hi, -⟩ := h
  exact hi

/-- Settles O43: the first step leaves the colour word's tile with the alpha word next, the second the alpha over it. -/
theorem alphaOverColor : Obligations.AlphaOverColor := by
  intro s f hi hb hr hh hclean hp hformat hf
  have hq : s.hostQuiet := by simp [State.hostQuiet, hh]
  obtain ⟨u, hu, ⟨hregs, -⟩, hstep⟩ := step_running hi hb hr hq
  have hconfig : sameConfig s u := hregs.sameConfig
  obtain ⟨hg, hfu, -, -, -, -, -, -, -, hs, hc, hpu, hsrc, hint, hhost⟩ := hregs
  rw [wordDone_of_record (hpu.trans hp) ((hasAlpha_congr hg hfu).2 hformat)] at hstep
  have hcolor : tileShows s u.dst s.cur.tx s.cur.ty fun _ => 255 := tileShows_of_color_word hi hb hclean hp hu
  have hi' : (putPhase .alpha u).commandInv := stepKeepsCommandInvariant s _ hi hstep
  have hb' : (putPhase .alpha u).status.busy = true := (congrArg Status.busy hs).trans hb
  have hq' : (putPhase .alpha u).hostQuiet := by
    have hnil : u.host = [] := hhost.trans (congrArg List.tail hh)
    simp [State.hostQuiet, hnil]
  have hclean' : (putPhase .alpha u).interfered = false := hint.trans hclean
  have hcur : (putPhase .alpha u).cur = s.cur := hc
  have hconfig' : sameConfig s (putPhase .alpha u) := hconfig
  obtain ⟨v, hv, ⟨hregs', -⟩, hstep'⟩ := step_running hi' hb' ((regionsExist_congr hconfig').2 hr) hq'
  have hshow := tileShows_of_alpha_word hi' hb' hclean' rfl hv
    ((tileShows_congr hconfig' hsrc _ _ _ _).2 (hcur ▸ hcolor))
  rw [tileShows_congr hconfig' hsrc, tileWordAlpha_congr hconfig' hsrc, hcur] at hshow
  obtain rfl : alphaFields s.cfg.layoutAlphaHdr (tileAlphaWord s s.cur.tx s.cur.ty) = f := Instr.awAlpha.inj hf
  refine ⟨wordDone v, (run_succ hstep 1).trans (run_succ hstep' 0), ?_⟩
  rw [wordDone_dst_of_not_interfered (hregs'.interfered_eq.trans hclean')]
  exact hshow

end Sys2Proof.Machine

/-! The whole command (45_sequencer R185, R190, R191): what holds after each of its words, by induction over the words from
START to DONE, and the image it leaves in the raster. -/

namespace Sys2Proof.Machine

/-! ### Counting words -/

/-- The coded words of a tile record (30_encoding R80). -/
def recWords (s : State) : Nat := if hasAlpha s then 2 else 1

/-- The words a running command has executed: those of the tiles before its cursor, and the colour word of a record whose
alpha word is next (45_sequencer R187). -/
def wordIndex (s : State) : Nat := recWords s * tileIndex s + if s.phase = .alpha then 1 else 0

theorem wordSteps_eq (s : State) : s.wordSteps = recWords s * tiles s := by
  unfold State.wordSteps recWords
  split
  · rfl
  · exact (Nat.one_mul _).symm

theorem recWords_congr {s t : State} (h : sameConfig s t) : recWords t = recWords s := by
  unfold recWords
  simp only [hasAlpha_congr h.1 h.2.1]

theorem wordSteps_congr {s t : State} (h : sameConfig s t) : t.wordSteps = s.wordSteps := by
  obtain ⟨-, -, hw, hh, -⟩ := id h
  rw [wordSteps_eq, wordSteps_eq, recWords_congr h, tiles_congr hw hh]

theorem wordIndex_of_record {s : State} (hp : s.phase = .color) :
    wordIndex (putPhase .alpha s) = wordIndex s + 1 := by
  have hwords : recWords (putPhase .alpha s) * tileIndex (putPhase .alpha s) = recWords s * tileIndex s := rfl
  rw [wordIndex, wordIndex, hwords, putPhase_phase, hp]
  rfl

theorem tileIndex_congr {s t : State} (h : sameRegisters s t) : tileIndex t = tileIndex s := by
  obtain ⟨-, -, hw, -, -, -, -, -, -, -, hc, -⟩ := h
  rw [tileIndex, tileIndex, hw, hc]

theorem wordIndex_congr {s t : State} (h : sameRegisters s t) : wordIndex t = wordIndex s := by
  have hwords := recWords_congr h.sameConfig
  have htile := tileIndex_congr h
  obtain ⟨-, -, -, -, -, -, -, -, -, -, -, hp, -⟩ := h
  rw [wordIndex, wordIndex, hwords, htile, hp]

/-- The tile whose advance leaves the image is the last one (45_sequencer R190). -/
theorem tileIndex_of_last_tile {s : State} (htx : s.cur.tx < s.width.toNat / 4) (hty : s.cur.ty < s.height.toNat / 4)
    (hend : ¬ (nextCursor s).ty < s.height.toNat / 4) : tileIndex s + 1 = tiles s := by
  have hrows : s.height.toNat / 4 * (s.width.toNat / 4) ≤ (nextCursor s).ty * (s.width.toNat / 4) :=
    Nat.mul_le_mul_right _ (Nat.not_lt.1 hend)
  have hnext := nextCursor_index htx
  have hlt := tileIndex_lt_tiles htx hty
  rw [tiles_eq, Nat.mul_comm] at hlt ⊢
  omega

/-- The last word of a tile ends its record. -/
theorem wordIndex_of_last_word {s : State} (hi : s.commandInv) (hlast : ¬ (s.phase = .color ∧ hasAlpha s)) :
    wordIndex s + 1 = recWords s * (tileIndex s + 1) := by
  rw [wordIndex, recWords, Nat.mul_succ]
  cases hp : s.phase with
  | color =>
    have ha : ¬ hasAlpha s := fun ha => hlast ⟨hp, ha⟩
    rw [if_neg ha]
    rfl
  | alpha =>
    obtain ⟨-, ha⟩ := hi.2 hp
    rw [if_pos ha]
    rfl

theorem wordIndex_lt_wordSteps {s : State} (hi : s.commandInv) (hb : s.status.busy = true) : wordIndex s < s.wordSteps := by
  obtain ⟨-, htx, hty, -⟩ := hi.1 hb
  have htile : recWords s * (tileIndex s + 1) ≤ recWords s * tiles s := Nat.mul_le_mul_left _ (tileIndex_lt_tiles htx hty)
  rw [wordSteps_eq]
  by_cases hrec : s.phase = .color ∧ hasAlpha s
  · have hindex : wordIndex s = 2 * tileIndex s := by
      rw [wordIndex, recWords, if_pos hrec.2, hrec.1]
      rfl
    rw [recWords, if_pos hrec.2] at htile ⊢
    omega
  · have hindex := wordIndex_of_last_word hi hrec
    omega

/-! ### What holds during a command, and after it -/

/-- What a command launched in `s` leaves alone: configuration, SRC, and DST outside the raster. -/
structure CommandFrame (s t : State) : Prop where
  config : sameConfig s t
  src : t.src = s.src
  dst : ∀ a, ¬ inRaster s (a / 4) → Memory.load .dst t.dst a = Memory.load .dst s.dst a

/-- The first `n` tiles of the image, in row order, show in `m` what their words decode to. -/
def tilesShown (s : State) (m : Memory) (n : Nat) : Prop :=
  ∀ tx ty, tx < s.width.toNat / 4 → ty < s.height.toNat / 4 → ty * (s.width.toNat / 4) + tx < n →
    tileShows s m tx ty (tileAlpha s tx ty)

/-- The command launched in `s` has executed `n` words and still runs in `u`: the tiles before the cursor are decoded, and
the tile of a pending alpha word shows its colour. -/
structure Running (s : State) (n : Nat) (u : State) : Prop where
  frame : CommandFrame s u
  inv : u.commandInv
  status : u.status = Status.running
  quiet : u.hostQuiet
  clean : u.interfered = false
  words : wordIndex u = n
  shown : tilesShown s u.dst (tileIndex u)
  colored : u.phase = .alpha → tileShows s u.dst u.cur.tx u.cur.ty fun _ => 255

/-- The command launched in `s` has ended in `t`, and its image is decoded. -/
structure Finished (s t : State) : Prop where
  frame : CommandFrame s t
  status : t.status = Status.completed
  shown : tilesShown s t.dst (tiles s)

/-- The command launched in `s` after `n` words: it runs, or these were all its words and it has ended. -/
def Progress (s : State) (n : Nat) (u : State) : Prop := Running s n u ∨ (n = s.wordSteps ∧ Finished s u)

theorem Running.busy {s u : State} {n : Nat} (h : Running s n u) : u.status.busy = true := by
  rw [h.status]
  rfl

theorem Running.lt_wordSteps {s u : State} {n : Nat} (h : Running s n u) : n < s.wordSteps := by
  rw [← wordSteps_congr h.frame.config, ← h.words]
  exact wordIndex_lt_wordSteps h.inv h.busy

/-! ### One word -/

/-- A step of the decoder leaves alone what the command does. -/
theorem Running.frame_step {s u v : State} {n : Nat} (h : Running s n u) (hstep : step u = .next v) :
    CommandFrame s v ∧ v.hostQuiet := by
  obtain ⟨hsrc, -, hhost, -, hconfig⟩ := decoderNeverWritesSource u v h.quiet hstep
  have hdst := commandWritesOnlyRaster u v h.inv h.busy h.quiet hstep
  refine ⟨⟨sameConfig_trans h.frame.config (hconfig h.clean), hsrc.trans h.frame.src, fun a ha => ?_⟩, fun e he => ?_⟩
  · exact (hdst a fun hr => ha ((inRaster_congr h.frame.config _).1 hr)).trans (h.frame.dst a ha)
  · exact h.quiet e (List.mem_of_mem_tail (hhost ▸ he))

/-- A word keeps what the tiles before the cursor show. -/
theorem Running.shown_after_word {s u v : State} {n : Nat} (h : Running s n u)
    (hm : ∀ a, outsideTile u a → Memory.load .dst v.dst a = Memory.load .dst u.dst a) :
    tilesShown s v.dst (tileIndex u) := by
  intro tx ty htx hty hlt
  have hshow := h.shown tx ty htx hty hlt
  obtain ⟨-, -, hw, -⟩ := id h.frame.config
  rw [← tileShows_congr h.frame.config h.frame.src] at hshow ⊢
  rw [← hw] at htx hlt
  refine tileShows_of_other_tile h.inv h.busy hm htx ?_ hshow
  rintro ⟨rfl, rfl⟩
  exact Nat.lt_irrefl _ hlt

/-- Once the tile at the cursor is decoded too, one more tile is. -/
theorem tilesShown_succ {s u : State} {m : Memory} (hconfig : sameConfig s u) (htx : u.cur.tx < u.width.toNat / 4)
    (h : tilesShown s m (tileIndex u)) (hcur : tileShows s m u.cur.tx u.cur.ty (tileAlpha s u.cur.tx u.cur.ty)) :
    tilesShown s m (tileIndex u + 1) := by
  intro tx ty hx hy hlt
  obtain ⟨-, -, hw, -⟩ := hconfig
  rcases Nat.lt_succ_iff_lt_or_eq.1 hlt with hlt | heq
  · exact h tx ty hx hy hlt
  · rw [tileIndex, hw] at heq
    rw [hw] at htx
    have hty : ty = u.cur.ty := by
      have hdiv := congrArg (· / (s.width.toNat / 4)) heq
      simpa [Nat.mul_comm _ (s.width.toNat / 4), Nat.mul_add_div (Nat.zero_lt_of_lt hx), Nat.div_eq_of_lt hx,
        Nat.div_eq_of_lt htx] using hdiv
    subst hty
    obtain rfl : tx = u.cur.tx := Nat.add_left_cancel heq
    exact hcur

/-- After the colour word of a two-word record the command runs on, the tile showing its colour. -/
theorem Running.next_of_record {s u w : State} {n : Nat} (h : Running s n u)
    (hw : exec (fetchInstr u) (fetched (popHost u)) = .next w) (hframe : wordFrame (popHost u) w)
    (hstep : Machine.step u = .next (wordDone w)) (hrec : w.phase = .color ∧ hasAlpha w) :
    Running s (n + 1) (wordDone w) := by
  obtain ⟨hsame, hquiet⟩ := h.frame_step hstep
  have hinv : (wordDone w).commandInv := stepKeepsCommandInvariant u _ h.inv hstep
  obtain ⟨hregs, hm⟩ := hframe
  have hword : wordIndex w = n := (wordIndex_congr hregs).trans h.words
  have htile : tileIndex w = tileIndex u := tileIndex_congr (s := popHost u) hregs
  have hstatus : w.status = Status.running := hregs.status_eq.trans h.status
  have hclean : w.interfered = false := hregs.interfered_eq.trans h.clean
  obtain ⟨-, -, -, -, -, -, -, -, -, -, hc, hp, -⟩ := hregs
  have hshow : tileShows s w.dst w.cur.tx w.cur.ty fun _ => 255 := by
    rw [hc, ← tileShows_congr h.frame.config h.frame.src]
    exact tileShows_of_color_word h.inv h.busy h.clean (hp.symm.trans hrec.1) hw
  rw [wordDone_of_record hrec.1 hrec.2] at hsame hquiet hinv ⊢
  exact ⟨hsame, hinv, hstatus, hquiet, hclean, (wordIndex_of_record hrec.1).trans (congrArg (· + 1) hword),
    htile ▸ h.shown_after_word hm, fun _ => hshow⟩

/-- After the last word of a tile one more tile is decoded. -/
theorem Running.shown_after_last_word {s u w : State} {n : Nat} (h : Running s n u)
    (hw : exec (fetchInstr u) (fetched (popHost u)) = .next w) (hframe : wordFrame (popHost u) w)
    (hlast : ¬ (u.phase = .color ∧ hasAlpha u)) : tilesShown s w.dst (tileIndex u + 1) := by
  obtain ⟨-, hm⟩ := hframe
  obtain ⟨-, htx, -⟩ := h.inv.1 h.busy
  have hcongr (m : Memory) (alpha : Nat → Byte) :
      tileShows u m u.cur.tx u.cur.ty alpha ↔ tileShows s m u.cur.tx u.cur.ty alpha :=
    tileShows_congr h.frame.config h.frame.src m _ _ alpha
  have hshow : tileShows s w.dst u.cur.tx u.cur.ty (tileAlpha s u.cur.tx u.cur.ty) := by
    rw [← tileAlpha_congr h.frame.config h.frame.src, ← hcongr]
    exact tileShows_of_last_word h.inv h.busy h.clean hw hlast fun hp => (hcongr _ _).2 (h.colored hp)
  exact tilesShown_succ h.frame.config htx (h.shown_after_word hm) hshow

/-- After the last word of a tile the command runs on at the next tile, or has ended. -/
theorem Running.next_of_last_word {s u w : State} {n : Nat} (h : Running s n u)
    (hw : exec (fetchInstr u) (fetched (popHost u)) = .next w) (hframe : wordFrame (popHost u) w)
    (hstep : Machine.step u = .next (wordDone w)) (hlast : ¬ (w.phase = .color ∧ hasAlpha w)) :
    Progress s (n + 1) (wordDone w) := by
  obtain ⟨hsame, hquiet⟩ := h.frame_step hstep
  have hinv : (wordDone w).commandInv := stepKeepsCommandInvariant u _ h.inv hstep
  have hregs : sameRegisters (popHost u) w := hframe.1
  have hinvw : w.commandInv := hregs.commandInv h.inv
  have hstatus : w.status = Status.running := hregs.status_eq.trans h.status
  have hclean : w.interfered = false := hregs.interfered_eq.trans h.clean
  have hwords : n + 1 = recWords w * (tileIndex w + 1) := by
    rw [← wordIndex_of_last_word hinvw hlast, wordIndex_congr hregs]
    exact congrArg (· + 1) h.words.symm
  have hshown : tilesShown s w.dst (tileIndex w + 1) := by
    have htile : tileIndex w = tileIndex u := tileIndex_congr (s := popHost u) hregs
    obtain ⟨hg, hf, -, -, -, -, -, -, -, -, -, hp, -⟩ := hregs
    rw [htile]
    exact h.shown_after_last_word hw hframe fun hu => hlast ⟨hp.trans hu.1, (hasAlpha_congr hg hf).2 hu.2⟩
  obtain ⟨-, htx, hty, -⟩ := hinvw.1 (congrArg Status.busy hstatus)
  have hdst : (wordDone w).dst = w.dst := wordDone_dst_of_not_interfered hclean
  rw [wordDone_of_tile hlast] at hsame hquiet hinv hdst ⊢
  rcases tileDone_cases w with ⟨-, hnext⟩ | ⟨hend, hnext⟩
  · rw [hnext] at hsame hquiet hinv ⊢
    have hindex : tileIndex (putPhase .color (putCursor (nextCursor w) w)) = tileIndex w + 1 := nextCursor_index htx
    exact .inl ⟨hsame, hinv, hstatus, hquiet, hclean, (congrArg (recWords w * ·) hindex).trans hwords.symm,
      hindex ▸ hshown, nofun⟩
  · have htiles : tileIndex w + 1 = tiles w := tileIndex_of_last_tile htx hty hend
    have hconfig : sameConfig s w := sameConfig_trans h.frame.config hregs.sameConfig
    have hdone : n + 1 = s.wordSteps := by
      rw [hwords, htiles, ← wordSteps_eq, wordSteps_congr hconfig]
    obtain ⟨-, -, hwidth, hheight, -⟩ := hconfig
    refine .inr ⟨hdone, hsame, ?_, ?_⟩
    · rw [hnext, complete_status]
    · rw [hdst, ← tiles_congr hwidth hheight, ← htiles]
      exact hshown

/-- One step of a running command executes one word: the command runs on, or that was its last word. -/
theorem Running.step {s u : State} {n : Nat} (hr : s.regionsExist) (h : Running s n u) :
    ∃ v, Machine.step u = .next v ∧ Progress s (n + 1) v := by
  have hru : u.regionsExist := (regionsExist_congr h.frame.config).2 hr
  obtain ⟨w, hw, hframe, hstep⟩ := step_running h.inv h.busy hru h.quiet
  refine ⟨_, hstep, ?_⟩
  by_cases hrec : w.phase = .color ∧ hasAlpha w
  · exact .inl (h.next_of_record hw hframe hstep hrec)
  · exact h.next_of_last_word hw hframe hstep hrec

/-! ### All words -/

theorem Progress.run {s : State} (hr : s.regionsExist) {k n : Nat} {u : State} (h : Progress s n u)
    (hk : n + k ≤ s.wordSteps) : ∃ v, Sys2Proof.core.run k u = .next v ∧ Progress s (n + k) v := by
  induction k generalizing n u with
  | zero => exact ⟨u, rfl, h⟩
  | succ k ih =>
    rcases h with h | ⟨hend, -⟩
    · obtain ⟨v, hstep, hv⟩ := h.step hr
      obtain ⟨t, hrun, ht⟩ := ih hv (by omega)
      exact ⟨t, (run_succ hstep k).trans hrun, by rwa [Nat.add_assoc, Nat.add_comm 1] at ht⟩
    · omega

/-- An accepted command has executed no word yet: it runs, or has no tile to decode and is complete (45_sequencer R192). -/
theorem progress_accept {s : State} (hl : s.launchLegal) (hq : s.hostQuiet) :
    Progress s 0 (accept (clearFlags s)) := by
  have hframe : CommandFrame s (accept (clearFlags s)) :=
    ⟨accept_sameConfig (clearFlags s), accept_src _, fun a _ => by rw [accept_dst, clearFlags_dst]⟩
  have hinv : (accept (clearFlags s)).commandInv := accept_commandInv (s := clearFlags s) hl
  by_cases ht : tiles s = 0
  · rw [accept_of_no_tiles (s := clearFlags s) ht] at hframe ⊢
    refine .inr ⟨?_, hframe, rfl, ?_⟩
    · rw [wordSteps_eq, ht, Nat.mul_zero]
    · rw [ht]
      exact fun tx ty _ _ hlt => absurd hlt (Nat.not_lt_zero _)
  · rw [accept_of_tiles (s := clearFlags s) ht] at hframe hinv ⊢
    have hindex : tileIndex (beginCommand (clearFlags s)) = 0 := Nat.zero_mul _
    refine .inl ⟨hframe, hinv, rfl, hq, rfl, ?_, ?_, nofun⟩
    · rw [wordIndex, hindex]
      rfl
    · rw [hindex]
      exact fun tx ty _ _ hlt => absurd hlt (Nat.not_lt_zero _)

/-- A START under the launch premise whose checks pass, followed by at most one step per coded word with nobody but the
decoder acting. -/
theorem command_progress {s : State} (hp : s.launchPremise) (hl : s.launchLegal) (hq : s.hostQuiet) {k : Nat}
    (hk : k ≤ s.wordSteps) :
    ∃ v, Sys2Proof.core.run (1 + k) (putHost (.writeCtrl 1 :: s.host) s) = .next v ∧ Progress s k v := by
  obtain ⟨-, hb, hr, -⟩ := hp
  have hstart : step (putHost (.writeCtrl 1 :: s.host) s) = .next (accept (clearFlags s)) :=
    (step_start (putHost_host _ _)).trans (exec_decode_of_legal hb hl)
  obtain ⟨v, hrun, hv⟩ := (progress_accept hl hq).run hr ((Nat.zero_add k).trans_le hk)
  rw [Nat.zero_add] at hv
  exact ⟨v, by rw [Nat.add_comm, run_succ hstart, hrun], hv⟩

/-- After all its words the command has ended. -/
theorem command_finishes {s : State} (hp : s.launchPremise) (hl : s.launchLegal) (hq : s.hostQuiet) :
    ∃ t, Sys2Proof.core.run (1 + s.wordSteps) (putHost (.writeCtrl 1 :: s.host) s) = .next t ∧ Finished s t := by
  obtain ⟨t, hrun, ht | ⟨-, ht⟩⟩ := command_progress hp hl hq (Nat.le_refl s.wordSteps)
  · exact absurd ht.lt_wordSteps (Nat.lt_irrefl _)
  · exact ⟨t, hrun, ht⟩

/-- Settles O41: before the last word the command runs, and after it the command has ended. -/
theorem commandEnds : Obligations.CommandEnds := by
  intro s hp hl hq
  constructor
  · intro k hk
    obtain ⟨u, hrun, hu | ⟨hend, -⟩⟩ := command_progress hp hl hq (Nat.le_of_lt hk)
    · exact ⟨u, hrun, hu.status⟩
    · exact absurd hend (Nat.ne_of_lt hk)
  · obtain ⟨t, hrun, ht⟩ := command_finishes hp hl hq
    exact ⟨t, hrun, ht.status, ht.frame.config, ht.frame.src, ht.frame.dst⟩

/-- Settles O42: the command that has ended shows every tile of the image decoded. -/
theorem rasterIsDecodedImage : Obligations.RasterIsDecodedImage := by
  intro s hp hl hq
  obtain ⟨t, hrun, ht⟩ := command_finishes hp hl hq
  refine ⟨t, hrun, fun tx ty k htx hty hk => ?_⟩
  have hindex : ty * (s.width.toNat / 4) + tx < tiles s :=
    tileIndex_lt_tiles (s := putCursor ⟨0, 0, tx, ty⟩ s) htx hty
  exact ht.shown tx ty htx hty hindex k hk

end Sys2Proof.Machine

/-! `FORMAT` = `Dxt1` under the literal policy (45_sequencer R186): each part of a step commutes with the change of one
format code into another, where neither is that of `Etc2_RGBA`. -/

namespace Sys2Proof.Machine

/-- A function on the next state of an outcome; a stop stays as it is. -/
def mapNext (g : State → State) : Host.Outcome State Fault Refusal → Host.Outcome State Fault Refusal
  | .next s => .next (g s)
  | .fault r => .fault r
  | .refused r => .refused r

/-! ### A word operation reads no `FORMAT` -/

theorem storeTile_putFormat (m : Memory) (c : BitVec 32) (s : State) :
    storeTile m (putFormat c s) = mapNext (putFormat c) (storeTile m s) := by
  by_cases h : tileInRange s
  · rw [storeTile_of_inRange h, storeTile_of_inRange (s := putFormat c s) h]
    rfl
  · rw [storeTile_of_not_inRange h, storeTile_of_not_inRange (s := putFormat c s) h]
    rfl

theorem exec_word_putFormat {i : Instr} (hi : i.kind ≠ .command) (c : BitVec 32) (s : State) :
    exec i (putFormat c s) = mapNext (putFormat c) (exec i s) := by
  cases i with
  | cwIndiv f => exact storeTile_putFormat _ c (putWork _ s)
  | cwPlanar f => exact storeTile_putFormat _ c (putWork _ s)
  | cwDiff f => exact storeTile_putFormat _ c (putFree _ (putWork _ s))
  | awAlpha f => exact storeTile_putFormat _ c (putWork _ s)
  | decode => exact absurd rfl hi

/-! ### The tile walk reads of `FORMAT` only whether it is `Etc2_RGBA` -/

section
variable {c : BitVec 32} {s : State} (ha : ¬ hasAlpha s) (hc : c ≠ s.cfg.formatCode.etc2Rgba)
include ha hc

theorem hasAlpha_putFormat : hasAlpha (putFormat c s) ↔ hasAlpha s := iff_of_false hc ha

theorem recBytes_putFormat : recBytes (putFormat c s) = recBytes s := by
  rw [recBytes_eq, recBytes_eq, if_neg ha]
  exact if_neg hc

theorem fetchAddr_putFormat : fetchAddr (putFormat c s) = fetchAddr s := by
  have ha' : ¬ hasAlpha (putFormat c s) := hc
  rw [fetchAddr_eq, fetchAddr_eq, if_neg ha, if_neg ha']
  rfl

theorem fetchWord_putFormat : fetchWord (putFormat c s) = fetchWord s := by
  rw [fetchWord, fetchWord, fetchAddr_putFormat ha hc]
  rfl

theorem fetchInstr_putFormat : fetchInstr (putFormat c s) = fetchInstr s := by
  rw [fetchInstr, fetchInstr, fetchWord_putFormat ha hc]
  rfl

theorem fetched_putFormat : fetched (putFormat c s) = putFormat c (fetched s) := by
  have hwork : fetchWork (putFormat c s) = fetchWork s := by
    rw [fetchWork, fetchWork, fetchWord_putFormat ha hc]
    rfl
  rw [fetched, fetched, hwork]
  rfl

theorem nextCursor_putFormat : nextCursor (putFormat c s) = nextCursor s := by
  rw [nextCursor_eq, nextCursor_eq, recBytes_putFormat ha hc]
  rfl

end

theorem settle_putFormat {s : State} (hl : s.later.format = none) (c : BitVec 32) :
    settle (putFormat c s) = putFormat c (settle s) := by
  simp [settle, putFormat, hl]

/-- Completion keeps `FORMAT`, where the host did not write it during the command. -/
theorem complete_putFormat {s : State} (hl : s.later.format = none) (c : BitVec 32) :
    complete (putFormat c s) = putFormat c (complete s) := by
  cases hi : s.interfered with
  | false =>
    rw [complete_quiet hi, complete_quiet (s := putFormat c s) hi]
    rfl
  | true =>
    rw [complete, complete, if_pos hi, if_pos (show (putFormat c s).interfered = true from hi)]
    exact settle_putFormat (s := putInterfered false (putStatus Status.completed (scrambleRaster s))) hl c

theorem wordDone_putFormat {c : BitVec 32} {s : State} (ha : ¬ hasAlpha s) (hc : c ≠ s.cfg.formatCode.etc2Rgba)
    (hl : s.later.format = none) : wordDone (putFormat c s) = putFormat c (wordDone s) := by
  have ha' : ¬ hasAlpha (putFormat c s) := hc
  rw [wordDone_of_tile fun h => ha h.2, wordDone_of_tile fun h => ha' h.2, tileDone_eq, tileDone_eq,
    nextCursor_putFormat ha hc]
  by_cases hrow : (nextCursor s).ty < s.height.toNat / 4
  · rw [if_pos hrow]
    exact if_pos hrow
  · rw [if_neg hrow]
    exact (if_neg hrow).trans (complete_putFormat (s := putPhase .color (putCursor (nextCursor s) s)) hl c)

/-! ### The decoder's turn and the launch -/

theorem decoderPlan_putFormat {c : BitVec 32} {s : State} (ha : ¬ hasAlpha s) (hc : c ≠ s.cfg.formatCode.etc2Rgba)
    (hl : s.later.format = none) :
    runPlan (decoderPlan (putFormat c s)) = mapNext (putFormat c) (runPlan (decoderPlan s)) := by
  have hkind := fetchInstr_kind s
  have hrange : fetchInRange (putFormat c s) ↔ fetchInRange s := by
    rw [fetchInRange, fetchInRange, fetchAddr_putFormat ha hc]
    rfl
  rw [decoderPlan, decoderPlan, fetchInstr_putFormat ha hc, fetched_putFormat ha hc]
  simp only [putFormat_status, hrange]
  split
  · split
    · rw [runPlan, runPlan, exec_word_putFormat hkind]
      rcases exec_word_cases (fetchInstr s) (fetched s) hkind with ⟨-, hx⟩ | ⟨-, wk, n, m, hx, -⟩
      · rw [hx]
        rfl
      · rw [hx, mapNext, afterOutcome, afterOutcome, afterInstr_word _ _ hkind, afterInstr_word _ _ hkind, mapNext,
          wordDone_putFormat (s := putDst m (putFree n (putWork wk (fetched s)))) ha hc hl]
    · rfl
  · rfl

/-- With both formats legal and neither that of `Etc2_RGBA` the launch checks come out the same. -/
theorem launchCheck_putFormat {c : BitVec 32} {s : State} (ha : ¬ hasAlpha s) (hc : c ≠ s.cfg.formatCode.etc2Rgba)
    (hf : formatLegal s) (hf' : formatLegal (putFormat c s)) : launchCheck (putFormat c s) = launchCheck s := by
  rw [launchCheck, launchCheck, if_neg (not_not.2 hf), if_neg (not_not.2 hf'), recBytes_putFormat ha hc]
  rfl

theorem accept_putFormat (c : BitVec 32) (s : State) : accept (putFormat c s) = putFormat c (accept s) := by
  by_cases ht : tiles s = 0
  · rw [accept_of_no_tiles ht, accept_of_no_tiles (s := putFormat c s) ht]
    rfl
  · rw [accept_of_tiles ht, accept_of_tiles (s := putFormat c s) ht]
    rfl

theorem exec_decode_putFormat {c : BitVec 32} {s : State} (ha : ¬ hasAlpha s) (hc : c ≠ s.cfg.formatCode.etc2Rgba)
    (hf : formatLegal s) (hf' : formatLegal (putFormat c s)) :
    exec .decode (putFormat c s) = mapNext (putFormat c) (exec .decode s) := by
  cases hb : s.status.busy with
  | true =>
    rw [exec_decode_of_busy hb, exec_decode_of_busy (s := putFormat c s) hb]
    rfl
  | false =>
    have hcheck : launchCheck (clearFlags (putFormat c s)) = launchCheck (clearFlags s) := launchCheck_putFormat ha hc hf hf'
    rw [exec_decode_of_idle hb, exec_decode_of_idle (s := putFormat c s) hb, launch, launch, hcheck]
    cases launchCheck (clearFlags s) with
    | some e => rfl
    | none => exact congrArg Host.Outcome.next (accept_putFormat c (clearFlags s))

/-- A step of the decoder or of a START commutes with the change of one legal format code into another, neither that of
`Etc2_RGBA`. -/
theorem step_putFormat {c : BitVec 32} {s : State} (ha : ¬ hasAlpha s) (hc : c ≠ s.cfg.formatCode.etc2Rgba)
    (hf : formatLegal s) (hf' : formatLegal (putFormat c s)) (hl : s.later.format = none)
    (hhost : s.host = [] ∨ s.host = [.writeCtrl 1]) : step (putFormat c s) = mapNext (putFormat c) (step s) := by
  rcases hhost with hh | hh
  · rw [step_of_host_nil hh, step_of_host_nil (s := putFormat c s) hh]
    exact decoderPlan_putFormat ha hc hl
  · rw [step_start hh, step_start (s := putFormat c s) hh]
    exact exec_decode_putFormat (s := putHost [] s) ha hc hf hf'

/-- Settles O23: the state with the code of `Dxt1` is the one with the code of `Etc1` with its format changed. -/
theorem dxt1RunsAsEtc1 : Obligations.Dxt1RunsAsEtc1 := by
  intro s hpolicy hhost hl hetc1 hdxt1
  have hmap := step_putFormat (c := s.cfg.formatCode.dxt1) (s := putFormat s.cfg.formatCode.etc1 s) hetc1 hdxt1
    (.inl rfl) (.inr (.inl ⟨rfl, hpolicy⟩)) hl hhost
  refine hmap.trans ?_
  cases step (putFormat s.cfg.formatCode.etc1 s) <;> rfl

end Sys2Proof.Machine

/-! The host's container (48_host_container): opening what the writer emits, and the mip chain of a created image. -/

namespace Sys2Proof.Machine

/-! ### Opening a PVR-style header (R201) -/

/-- The opener knows every code the writer emits but that of `Dxt1`. -/
theorem pvrFormat_pvrCode (f : ImageFormat) : pvrFormat (pvrCode f) = if f = .dxt1 then none else some f := by
  cases f <;> rfl

section
variable {m : Memory} {buf : Nat} (hmagic : headerWord m buf 0 = 0x03525650)
include hmagic

theorem openContainer_pvr_some (total : Nat) {f : ImageFormat} (hf : pvrFormat (headerWord m buf 2) = some f) :
    openContainer m buf total =
      .ok ⟨f, headerWord m buf 7, headerWord m buf 6, 52 + (headerWord m buf 12).toNat, total⟩ := by
  rw [openContainer, if_pos hmagic, hf]

theorem openContainer_pvr_none (total : Nat) (hf : pvrFormat (headerWord m buf 2) = none) :
    openContainer m buf total = .error .unsupportedPixelFormat := by
  rw [openContainer, if_pos hmagic, hf]

end

/-- Settles O34: of the words written the opener reads those of index 0, 2, 6, 7 and 12. -/
theorem writtenHeaderOpens : Obligations.WrittenHeaderOpens := by
  intro m buf total f width height mips hwords
  have hmagic : headerWord m buf 0 = 0x03525650 := (Option.some.inj (hwords 0 (by decide))).symm
  have hcode : pvrCode f = headerWord m buf 2 := Option.some.inj (hwords 2 (by decide))
  have hheight : height = headerWord m buf 6 := Option.some.inj (hwords 6 (by decide))
  have hwidth : width = headerWord m buf 7 := Option.some.inj (hwords 7 (by decide))
  have hmeta : 0 = headerWord m buf 12 := Option.some.inj (hwords 12 (by decide))
  have hformat : pvrFormat (headerWord m buf 2) = if f = .dxt1 then none else some f := hcode ▸ pvrFormat_pvrCode f
  constructor
  · intro hf
    rw [openContainer_pvr_some hmagic total (hformat.trans (if_neg hf)), ← hwidth, ← hheight, ← hmeta]
    rfl
  · intro hf
    exact openContainer_pvr_none hmagic total (hformat.trans (if_pos hf))

/-! ### The mip chain (R207) -/

theorem areaBytes_eq (f : ImageFormat) (pixels : Nat) :
    areaBytes f pixels = if f = .etc2Rgba then 2 * (pixels / 2) else pixels / 2 := by
  cases f <;> rfl

theorem levelStart_one (f : ImageFormat) (w h off : Nat) : levelStart f w h off 1 = off + areaBytes f (w * h) := rfl

/-- Each level starts where the one before ends. -/
theorem levelStart_succ (f : ImageFormat) (w h off k : Nat) :
    levelStart f w h off (k + 1) = levelStart f w h off k + levelBytes f w h k := by
  simp [levelStart, List.range_succ, Nat.add_assoc]

/-- Halving a dimension that was held at 1 or above and holding it so again is halving once more. -/
theorem max_one_half (a k : Nat) : max 1 (max 1 (a / 2 ^ k) / 2) = max 1 (a / 2 ^ (k + 1)) := by
  rw [Nat.pow_succ, ← Nat.div_div_eq_div_mul]
  omega

section
variable {w h : Nat} (hw : 0 < w) (hh : 0 < h)
include hw hh

/-- Level `k` in closed form. -/
theorem levelDims_eq (k : Nat) : levelDims w h k = (max 1 (w / 2 ^ k), max 1 (h / 2 ^ k)) := by
  induction k with
  | zero => simp [levelDims, Nat.max_eq_right hw, Nat.max_eq_right hh]
  | succ k ih => rw [levelDims, ih, max_one_half, max_one_half]

theorem levelBytes_succ (f : ImageFormat) (k : Nat) :
    levelBytes f w h (k + 1) =
      areaBytes f (max 4 (max 1 (w / 2 ^ (k + 1))) * max 4 (max 1 (h / 2 ^ (k + 1)))) := by
  rw [levelBytes, levelDims_eq hw hh]

/-- A level is 1x1 from the logarithm of the larger dimension on. -/
theorem levelDims_eq_one_iff (k : Nat) : levelDims w h k = (1, 1) ↔ Nat.log2 (max w h) ≤ k := by
  have hside (a : Nat) : max 1 (a / 2 ^ k) = 1 ↔ a < 2 ^ (k + 1) := by
    rw [Nat.pow_succ', ← Nat.div_lt_iff_lt_mul (Nat.two_pow_pos k)]
    omega
  rw [levelDims_eq hw hh, Prod.mk.injEq, hside, hside, ← Nat.max_lt, ← Nat.log2_lt (by omega), Nat.lt_succ_iff]

/-- The halving reaches 1x1 at the last level of the chain and at none before. -/
theorem reachesOne_of_pos : reachesOne w h = true := by
  simp [reachesOne, mipCount, levelDims_eq_one_iff hw hh]

end

/-! ### Create-for-writing (R206) -/

section
variable {width height : BitVec 32} (hw : width.toNat % 4 = 0) (hh : height.toNat % 4 = 0) {mips : Bool}
  (hone : mips = true → reachesOne width.toNat height.toNat = true)
include hw hh hone

theorem createContainer_ok (f : ImageFormat) :
    createContainer f width height mips =
      .ok ⟨createLength f width.toNat height.toNat mips, writtenHeader f width height mips⟩ := by
  have hchain : ¬ (mips && !reachesOne width.toNat height.toNat) = true := by simpa using hone
  rw [createContainer, if_neg (by omega), if_neg hchain]

/-- What create-for-writing makes is an image in the sense of R205. -/
theorem createLength_valid (f : ImageFormat) :
    Container.valid ⟨f, width, height, 52, createLength f width.toNat height.toNat mips⟩ :=
  ⟨hw, hh, mips, hone, rfl⟩

end

/-- Settles O44: a positive size lets the halving reach 1x1, so neither error of the writer arises. -/
theorem createdLevels : Obligations.CreatedLevels := by
  intro f width height mips hw4 hh4 hw0 hh0
  have hw : 0 < width.toNat := Nat.pos_of_ne_zero fun h => hw0 (BitVec.eq_of_toNat_eq h)
  have hh : 0 < height.toNat := Nat.pos_of_ne_zero fun h => hh0 (BitVec.eq_of_toNat_eq h)
  have hone : mips = true → reachesOne width.toNat height.toNat = true := fun _ => reachesOne_of_pos hw hh
  refine ⟨createContainer_ok hw4 hh4 hone f, createLength_valid hw4 hh4 hone f, ?_,
    levelStart_succ f _ _ 52, levelBytes_succ hw hh f⟩
  rw [levelStart_one, areaBytes_eq]

end Sys2Proof.Machine

/-! Exceptions, reset and hazards (60_exceptions, 70_reset_and_hazards): where a word operation and a running command stop,
what the host's memory accesses leave unchanged and which of them interfere with a command, and what a reset leaves. -/

namespace Sys2Proof.Machine

/-! ### Where a word stops (60_exceptions R230, R244) -/

/-- Settles O39: the next word of a running command and its tile lie in the command's regions, so the step executes it. -/
theorem noCodedWordStops : Obligations.NoCodedWordStops := by
  intro s hi hb hr hq
  obtain ⟨u, -, -, hstep⟩ := step_running hi hb hr hq
  exact ⟨_, hstep⟩

theorem tileInRange_iff (s : State) : tileInRange s ↔ s.cur.dstPtr + 3 * s.width.toNat + 3 < 2 ^ s.cfg.addrBits := Iff.rfl

/-- Settles O16: a word operation stops exactly where its tile does not exist, whose last pixel is that of row 3, column 3. -/
theorem wordOperationStopsOnlyOutOfRange : Obligations.WordOperationStopsOnlyOutOfRange := by
  intro i s hi
  rw [← tileInRange_iff]
  rcases exec_word_cases i s hi with ⟨hout, hx⟩ | ⟨hin, wk, n, m, hx, -, -⟩
  · refine ⟨⟨fun ⟨t, ht⟩ => ?_, fun hin => absurd hin hout⟩, fun _ => hx⟩
    cases hx.symm.trans ht
  · exact ⟨⟨fun _ => hin, fun _ => ⟨_, hx⟩⟩, fun hout => absurd hin hout⟩

/-! ### The host's memory accesses (70_reset_and_hazards R270, R271) -/

/-- The mark is set by an access that touches what the command owns, while a command runs, and never cleared. -/
theorem noteTouch_interfered_iff (touches : Prop) [Decidable touches] (s : State) :
    (noteTouch (decide touches) s).interfered = true ↔ s.interfered = true ∨ (s.status.busy = true ∧ touches) := by
  unfold noteTouch
  split
  · rename_i h
    exact iff_of_true rfl (.inr (by simpa using h))
  · rename_i h
    rw [Bool.and_eq_true_iff, decide_eq_true_eq] at h
    exact (or_iff_left h).symm

/-- An access that touches nothing of the command's leaves no mark. -/
theorem noteTouch_of_not {touches : Prop} [Decidable touches] (h : ¬ touches) (s : State) :
    noteTouch (decide touches) s = s := by
  rw [noteTouch, decide_eq_false h, Bool.and_false]
  rfl

theorem noteTouch_sameConfig (b : Bool) (s : State) : sameConfig s (noteTouch b s) := by
  simp [sameConfig]

section
variable (s : State) (rest : List HostEvent)

theorem step_writeSrc {a : Nat} (v : Byte) (ha : a < 2 ^ s.cfg.addrBits) :
    step (putHost (.writeSrc a v :: rest) s) =
      .next (putSrc (Memory.write s.src a v) (noteTouch (decide (inSource s a)) (putHost rest s))) :=
  (step_of_host_cons (putHost_host _ _)).trans (if_pos ha)

theorem step_writeDst {p : Nat} (v : Pixel) (hp : p < 2 ^ s.cfg.addrBits) :
    step (putHost (.writeDst p v :: rest) s) =
      .next (putDst (writePixel s.dst p v) (noteTouch (decide (inRaster s p)) (putHost rest s))) :=
  (step_of_host_cons (putHost_host _ _)).trans (if_pos hp)

theorem step_readDst {p : Nat} (hp : p < 2 ^ s.cfg.addrBits) :
    step (putHost (.readDst p :: rest) s) = .next (noteTouch (decide (inRaster s p)) (putHost rest s)) :=
  (step_of_host_cons (putHost_host _ _)).trans (if_pos hp)

/-- A write of CTRL has no effect while BUSY, START or not (10_state R29). -/
theorem step_writeCtrl_of_busy (v : BitVec 32) (hb : s.status.busy = true) :
    step (putHost (.writeCtrl v :: rest) s) = .next (putHost rest s) := by
  obtain ⟨-, hignored, -⟩ := stepRunsCommand (putHost (.writeCtrl v :: rest) s) v rest (putHost_host _ _)
  exact hignored hb

end

/-- Settles O29: each access is one store, or none, after `noteTouch`. -/
theorem hostMemoryAccesses : Obligations.HostMemoryAccesses := by
  intro s rest a p b v ha hp
  refine ⟨⟨_, step_writeSrc s rest b ha, ?_⟩, ⟨_, step_writeDst s rest v hp, ?_⟩, ⟨_, step_readDst s rest hp, ?_⟩⟩
  · exact ⟨Memory.load_write_same _ _ _ _, fun c hc => Memory.load_write_other _ _ _ hc.symm, noteTouch_dst _ _,
      noteTouch_sameConfig _ (putHost rest s), noteTouch_interfered_iff _ (putHost rest s)⟩
  · exact ⟨readPixel_writePixel_same _ _ _, fun c hc => load_writePixel_other _ _ _ _ _ hc, noteTouch_src _ _,
      noteTouch_sameConfig _ (putHost rest s), noteTouch_interfered_iff _ (putHost rest s)⟩
  · exact ⟨noteTouch_dst _ _, noteTouch_src _ _, noteTouch_sameConfig _ (putHost rest s),
      noteTouch_interfered_iff _ (putHost rest s)⟩

/-- Settles O46: an access outside the command's regions leaves no mark, and its store lies outside them; CTRL is ignored. -/
theorem exclusiveAccessesHarmless : Obligations.ExclusiveAccessesHarmless := by
  intro s e rest hb hrun h
  cases e with
  | run => exact absurd rfl hrun
  | writeCtrl v => exact ⟨s.src, s.dst, step_writeCtrl_of_busy s rest v hb, fun _ _ => rfl, fun _ _ => rfl⟩
  | writeSrc a v =>
    obtain ⟨ha, hout⟩ := h
    refine ⟨Memory.write s.src a v, s.dst, ?_, fun c hc => ?_, fun _ _ => rfl⟩
    · rw [step_writeSrc s rest v ha, noteTouch_of_not hout]
      rfl
    · exact Memory.load_write_other _ _ _ fun hac => hout (hac ▸ hc)
  | writeDst p v =>
    obtain ⟨hp, hout⟩ := h
    refine ⟨s.src, writePixel s.dst p v, ?_, fun _ _ => rfl, fun c hc => ?_⟩
    · rw [step_writeDst s rest v hp, noteTouch_of_not hout]
      rfl
    · exact load_writePixel_other _ _ _ _ _ fun hcp => hout (hcp ▸ hc)
  | readDst p =>
    obtain ⟨hp, hout⟩ := h
    refine ⟨s.src, s.dst, ?_, fun _ _ => rfl, fun _ _ => rfl⟩
    rw [step_readDst s rest hp, noteTouch_of_not hout]
    rfl
  | writeFormat _ | writeWidth _ | writeHeight _ | writeSrcBase _ | writeSrcLen _ | writeDstBase _ | reset =>
    exact False.elim h

/-! ### Reset (70_reset_and_hazards R260, R261) -/

theorem step_reset {s : State} {rest : List HostEvent} (h : s.host = .reset :: rest) :
    step s = .next (resetMachine (putHost rest s)) := step_of_host_cons h

/-- Reset changes DST only where a command runs, and then as the end of a disturbed command does (93 U6). -/
theorem resetMachine_dst (s : State) :
    (resetMachine s).dst = if s.status.busy then (scrambleRaster s).dst else s.dst := rfl

theorem load_scrambleRaster_of_not_inRaster {s : State} {a : Nat} (h : ¬ inRaster s (a / 4)) :
    Memory.load .dst (scrambleRaster s).dst a = Memory.load .dst s.dst a :=
  load_scramble_other _ _ _ _ _ _ _ (by unfold inRaster at h; omega)

/-- Settles O30: reset keeps SRC and the parameters, and of DST it gives up the raster of a running command at most. -/
theorem resetLeavesIdle : Obligations.ResetLeavesIdle := by
  intro s rest hh
  refine ⟨_, step_reset hh, rfl, rfl, rfl, rfl, rfl, rfl, rfl, rfl, fun hb => ?_, fun a ha => ?_⟩
  · rw [resetMachine_dst, putHost_status, hb]
    rfl
  · rw [resetMachine_dst]
    split
    · exact load_scrambleRaster_of_not_inRaster (s := putHost rest s) ha
    · rfl

/-! ### The marks of interference (70_reset_and_hazards R270, R271, R273) -/

theorem interferenceInv_of_interfered {s : State} (hb : s.status.busy = true) (hm : s.interfered = true) :
    s.interferenceInv := ⟨fun h => by simp [hb] at h, fun h => by simp [hm] at h⟩

/-- Completion settles the later values of a disturbed command, and no other command has any. -/
theorem complete_interferenceInv {s : State} (hi : s.interferenceInv) : (complete s).interferenceInv := by
  refine ⟨fun _ => complete_interfered s, fun _ => ?_⟩
  cases hm : s.interfered with
  | true =>
    rw [complete, hm]
    exact settle_later _
  | false =>
    rw [complete_quiet hm]
    exact hi.2 hm

theorem wordDone_interferenceInv {s : State} (hi : s.interferenceInv) : (wordDone s).interferenceInv := by
  unfold wordDone
  split
  · exact hi
  · rcases tileDone_cases s with ⟨-, h⟩ | ⟨-, h⟩ <;> rw [h]
    · exact hi
    · exact complete_interferenceInv (s := putPhase .color (putCursor (nextCursor s) s)) hi

theorem accept_interfered (s : State) : (accept s).interfered = false := by
  unfold accept
  split
  · exact complete_interfered _
  · rfl

/-- A launch leaves idle, where nothing is marked, or begins a command with nothing marked. -/
theorem execDecode_interferenceInv {s t : State} (hi : s.interferenceInv) (h : execDecode s = .next t) :
    t.interferenceInv := by
  rcases execDecode_cases s with ⟨-, hx⟩ | ⟨hb, e, -, hx⟩ | ⟨hb, -, hx⟩ <;> cases hx.symm.trans h
  · exact hi
  · exact ⟨fun _ => hi.1 hb, hi.2⟩
  · have hlater : (accept (clearFlags s)).later = Later.none := (accept_later _).trans (hi.2 (hi.1 hb))
    exact ⟨fun _ => accept_interfered _, fun _ => hlater⟩

theorem noteTouch_interferenceInv (b : Bool) {s : State} (hi : s.interferenceInv) : (noteTouch b s).interferenceInv := by
  unfold noteTouch
  split
  · rename_i h
    exact interferenceInv_of_interfered (Bool.and_eq_true_iff.1 h).1 rfl
  · exact hi

theorem ConfigStep.interferenceInv {s t : State} (h : ConfigStep s t) (hi : s.interferenceInv) : t.interferenceInv := by
  rcases h with ⟨v, rfl⟩ | ⟨v, rfl⟩ | ⟨v, rfl⟩ | ⟨v, rfl⟩ | ⟨v, rfl⟩ | ⟨v, rfl⟩ <;> exact hi

theorem sameRegisters.interferenceInv {s t : State} (h : sameRegisters s t) (hi : s.interferenceInv) : t.interferenceInv := by
  obtain ⟨-, -, -, -, -, -, -, -, hlater⟩ := h.sameConfig
  exact (interferenceInv_congr h.status_eq h.interfered_eq hlater).2 hi

theorem DecoderStep.interferenceInv {s t : State} (h : DecoderStep s t) (hi : s.interferenceInv) : t.interferenceInv := by
  cases h with
  | idle hb h => exact h ▸ hi
  | word hb hf hr wk n m hx hwf hm h =>
    rw [h]
    exact wordDone_interferenceInv ((fetched_put_sameRegisters s wk n m).interferenceInv hi)

/-- Every move keeps the marks in order: only accesses during a command set one, and its end clears them all. -/
theorem Move.interferenceInv {s t : State} (h : Move s t) (hi : s.interferenceInv) : t.interferenceInv := by
  cases h with
  | decoder h => exact h.interferenceInv hi
  | launch h => exact execDecode_interferenceInv hi h
  | nothing h => exact h ▸ hi
  | config hb h => exact h.interferenceInv hi
  | disturb hb u hu h => exact h ▸ interferenceInv_of_interfered ((congrArg Status.busy hu.status_eq).trans hb) rfl
  | writeSrc a v ha h =>
    have hput : (putSrc (Memory.write s.src a v) (noteTouch (decide (inSource s a)) s)).interferenceInv :=
      noteTouch_interferenceInv _ hi
    exact h ▸ hput
  | writeDst p v hp h =>
    have hput : (putDst (writePixel s.dst p v) (noteTouch (decide (inRaster s p)) s)).interferenceInv :=
      noteTouch_interferenceInv _ hi
    exact h ▸ hput
  | readDst p hp h => exact h ▸ noteTouch_interferenceInv _ hi
  | reset h => exact h ▸ ⟨fun _ => rfl, fun _ => rfl⟩

/-- Settles O45, by the inversion of `step`: taking an event off the queue touches no mark. -/
theorem stepKeepsInterferenceInvariant : Obligations.StepKeepsInterferenceInvariant := by
  intro s t hi h
  have hpop : (popHost s).interferenceInv := hi
  exact (step_next_cases h).interferenceInv hpop

end Sys2Proof.Machine
